-- ==== Sys2Proof/Word.lean ====
section
/-! DEFINITION. The words of the block: bytes, the 32-bit CRC register, the 24-bit address of a request frame
(`00_scope.md` R9, `10_state.md` R12, `30_encoding.md` R61) and the four bytes of a CRC trailer. -/

namespace Sys2Proof

/-- A byte: 8 bits, bit 0 the least significant (`00_scope.md` R9). -/
abbrev Byte := BitVec 8

/-- The width of the CRC generator's shift register (`10_state.md` R12). -/
abbrev Word := BitVec 32

/-- An address field of a request frame: the 24 bits that travel (`30_encoding.md` R66). -/
abbrev Addr24 := BitVec 24

/-- Four CRC bytes in the order they are emitted: `b0` is the most significant byte of the 32-bit value
and stands at the lowest offset (`20_memory.md` R44). -/
structure Trailer where
  b0 : Byte
  b1 : Byte
  b2 : Byte
  b3 : Byte
  deriving DecidableEq, Repr, Inhabited

end Sys2Proof
end

