-- ==== Sys2Proof/Config.lean ====
section
/-! DEFINITION. The parameters of the block: the fixed frame and CRC constants, the settable parameters
(`00_scope.md` R8, `92_eei_decisions.md` "OPEN parameters"), and the free values, which the spec leaves open. -/

namespace Sys2Proof

/-- `HEADER_LEN`: bytes before the payload (`00_scope.md` R8). -/
abbrev headerLen : Nat := 10

/-- `CRC_LEN`: bytes of CRC trailer (`00_scope.md` R8). -/
abbrev crcLen : Nat := 4

/-- `MAX_FRAME`: the largest request frame (`00_scope.md` R8). -/
abbrev maxFrame : Nat := 250

/-- `MAX_PAYLOAD`: what the largest frame leaves for data, 236 (`00_scope.md` R8). -/
abbrev maxPayload : Nat := maxFrame - headerLen - crcLen

/-- `CMD_READ` (`00_scope.md` R8). -/
abbrev cmdRead : Byte := 0xAA#8

/-- `CMD_WRITE` (`00_scope.md` R8). -/
abbrev cmdWrite : Byte := 0xDD#8

/-- `BANK_SD_CARD` (`00_scope.md` R8). -/
abbrev bankSdCard : Byte := 0x1A#8

/-- `BANK_EEPROM` (`00_scope.md` R8). -/
abbrev bankEeprom : Byte := 0x1B#8

/-- `BANK_CPU` (`00_scope.md` R8). -/
abbrev bankCpu : Byte := 0x1C#8

/-- `INT_LOG` (`00_scope.md` R8): a named intention tag; every other byte is accepted too (`30_encoding.md` R65). -/
abbrev intLog : Byte := 0x2A#8

/-- `INT_COMMAND` (`00_scope.md` R8). -/
abbrev intCommand : Byte := 0x2B#8

/-- `INT_CONFIG` (`00_scope.md` R8). -/
abbrev intConfig : Byte := 0x2C#8

/-- `ACK_LEN`: the expected response size to a write (`00_scope.md` R8). -/
abbrev ackLen : Nat := 5

/-- `CRC_POLY_REFLECTED` (`00_scope.md` R8, `41_crc32_engine.md` R92). -/
abbrev crcPolyReflected : Word := 0xEDB88320#32

/-- `CRC_INIT` (`00_scope.md` R8). -/
abbrev crcInit : Word := 0xFFFFFFFF#32

/-- `CRC_XOROUT` (`00_scope.md` R8). -/
abbrev crcXorOut : Word := 0xFFFFFFFF#32

/-- The settable parameters (`00_scope.md` R8, `10_state.md` R20). They are fixed at launch and written by no
operation. DESIGN CHOICE (entry 3): State carries them in a field that no step writes, so that every claim holds
for every setting. -/
structure Config where
  /-- `RX_CRC_CHECK`: whether a completed response is validated (`43_receive_assembler.md` R147). -/
  rxCrcCheck : Bool := true
  /-- `BASE_TIMEOUT_MS`: the first threshold (`10_state.md` R22). -/
  baseTimeoutMs : Nat := 2000
  /-- `POLL_MS`: the rhythm of the polls, fairness only; nothing reads it (`45_session_and_timeout.md` R188, entry 25). -/
  pollMs : Nat := 100
  /-- `ADDR_WIDTH`: the width of the `startAddr` operand. -/
  addrWidth : Nat := 32
  /-- `LEN_MAX`: the largest length operand; `none` is unbounded (`92_eei_decisions.md` D9). -/
  lenMax : Option Nat := some 4294967295
  /-- `RXBUF_CAP`: the capacity of the chunk store in bytes; `none` is unbounded (`92_eei_decisions.md` D30). -/
  rxbufCap : Option Nat := none
  deriving DecidableEq, Repr

/-- Every parameter at its default of `00_scope.md` R8. -/
def Config.standard : Config := {}

/-- FREE VALUE. What `CRC_REG` holds after reset: unspecified (`10_state.md` R26, `93_implementation_defined.md` U3,
"any value, never zero"). DESIGN CHOICE (entry 11). -/
opaque Config.crcRegAtReset : Word

/-- FREE VALUE. What `CHK_EXPECTED` holds after reset: unspecified (`10_state.md` R26). DESIGN CHOICE (entry 11). -/
opaque Config.chkExpectedAtReset : Trailer

/-- FREE VALUE. What `CHK_RECEIVED` holds after reset: unspecified (`10_state.md` R26). DESIGN CHOICE (entry 11). -/
opaque Config.chkReceivedAtReset : Trailer

/-- FREE VALUE. What `TMO_START` holds after reset: unspecified (`10_state.md` R26). DESIGN CHOICE (entry 11). -/
opaque Config.tmoStartAtReset : Nat

/-- FREE VALUE. The elapsed time of a poll whose `now` (first argument) lies before `TMO_START` (second argument):
the spec's `now` never decreases and its subtraction is on natural numbers (`45_session_and_timeout.md` R181,
`00_scope.md` R9), so it states no result there. DESIGN CHOICE (entry 14). -/
opaque Config.elapsedBeforeStart : Nat → Nat → Nat

end Sys2Proof
end

