-- ==== Sys2Proof/Syntax.lean ====
section
/-! DEFINITION. The instructions of the block, one constructor per row of `spec/opcode_table.json`, and what an
agent or a wire presents to the block: an operation select with its operand lines (`30_encoding.md` R76), a request
frame (format REQ, R61) or a response (format RSP, R71). -/

namespace Sys2Proof

/-- The bank operand: the three named selectors and one constructor for every other selector value, so that
`UnknownBank` can be reached (`42_frame_codec.md` R112). -/
inductive BankSelector where
  | sdCard
  | eeprom
  | cpu
  | other (k : Nat)
  deriving DecidableEq, Repr

/-- `isWrite` and `lengthOrData` of `TXN.SEND` together: a length for a read, a data operand (perhaps absent) for a
write (`45_session_and_timeout.md` R176, `30_encoding.md` R79). -/
inductive SendBody where
  | read (length : Nat)
  | write (data : Option (List Byte))
  deriving DecidableEq, Repr

/-- The instructions: every row of `spec/opcode_table.json`. The first four are the wire formats REQ and RSP with
their fields, the other eleven the operations of `30_encoding.md` R78 with their operands. -/
inductive Instr where
  /-- `READ_REQ`, `30_encoding.md` R69: bank code, intention, the two address fields and the trailer of the frame. -/
  | readReq (bank intention : Byte) (lowAddr hiAddr : Addr24) (crc : Trailer)
  /-- `WRITE_REQ`, `30_encoding.md` R70: the length byte is a field of the table's row. -/
  | writeReq (length bank intention : Byte) (lowAddr hiAddr : Addr24) (payload : List Byte) (crc : Trailer)
  /-- `READ_RSP`, `30_encoding.md` R71, with `m ≥ 1` data bytes. -/
  | readRsp (status : Byte) (data : List Byte) (crc : Trailer)
  /-- `WRITE_ACK`, `30_encoding.md` R71, with no data. -/
  | writeAck (status : Byte) (crc : Trailer)
  /-- `CRC.HASH`, `41_crc32_engine.md` R95: an absent buffer is `none`; an omitted `offset` or `count` is `none`
  (`30_encoding.md` R79). -/
  | crcHash (bytes : Option (List Byte)) (offset count : Option Nat)
  /-- `FRAME.BUILD_READ`, `42_frame_codec.md` R120. -/
  | buildRead (startAddr length : Nat) (bank : BankSelector) (intention : Byte)
  /-- `FRAME.BUILD_WRITE`, `42_frame_codec.md` R121: an absent `data` operand is `none`. -/
  | buildWrite (startAddr : Nat) (data : Option (List Byte)) (bank : BankSelector) (intention : Byte)
  /-- `FRAME.EXPECTED_LEN`, `42_frame_codec.md` R122. -/
  | expectedLen (isWrite : Bool) (length : Nat)
  /-- `RX.RESET`, `43_receive_assembler.md` R140. -/
  | rxReset (expectedTotal : Nat)
  /-- `RX.CHUNK`, `43_receive_assembler.md` R141. -/
  | rxChunk (chunk : List Byte)
  /-- `CHK.VALIDATE`, `44_checksum_validator.md` R160. -/
  | chkValidate (chunks : List (List Byte)) (checksumLength : Nat)
  /-- `CHK.DIAG`, `44_checksum_validator.md` R165. -/
  | chkDiag
  /-- `TXN.SEND`, `45_session_and_timeout.md` R176; `now` and `ready` (the transport's `isReady()`) are inputs of
  the step (`10_state.md` R25). -/
  | txnSend (body : SendBody) (startAddr : Nat) (bank : BankSelector) (intention : Byte) (now : Nat) (ready : Bool)
  /-- `TMO.POLL`, `45_session_and_timeout.md` R181. -/
  | tmoPoll (now : Nat)
  /-- `TMO.DECIDE`, `45_session_and_timeout.md` R183. -/
  | tmoDecide (goOn : Bool)
  deriving DecidableEq, Repr

/-- The operand lines of the operation port. The spec gives an operation operands but no bits for them
(`30_encoding.md` R76, R78): DESIGN CHOICE (entry 4), one typed line per operand name, and an operation reads only
its own lines. A line nothing drives is absent, 0, empty or false. The inputs `now` and `ready` of a step are lines too
(DESIGN CHOICE, entry 27). -/
structure OperandLines where
  bytes : Option (List Byte) := none
  offset : Option Nat := none
  count : Option Nat := none
  startAddr : Nat := 0
  length : Nat := 0
  data : Option (List Byte) := none
  /-- The port's selector index (`42_frame_codec.md` R112). -/
  bank : Nat := 0
  intention : Byte := 0#8
  isWrite : Bool := false
  expectedTotal : Nat := 0
  chunk : List Byte := []
  chunks : List (List Byte) := []
  /-- The fixed operand of `44_checksum_validator.md` R166: a line nothing drives stands for 4 (entry 4). -/
  checksumLength : Option Nat := none
  now : Nat := 0
  ready : Bool := false
  goOn : Bool := false
  deriving DecidableEq, Repr

/-- What is presented to the block: one invocation on the operation port, or the bytes of one of the two wire
formats. The format is known from where the bytes stand, not from the bytes (`30_encoding.md` R72, entry 5). -/
inductive Presented where
  | op (select : BitVec 4) (lines : OperandLines)
  | request (frame : List Byte)
  | response (bytes : List Byte)
  deriving DecidableEq, Repr

/-- Why the decoder refuses what is presented, each case by its name. -/
inductive DecodeError where
  /-- Select 0x0 or 0xC to 0xF (`30_encoding.md` R77). -/
  | reservedSelect (select : BitVec 4)
  /-- Fewer bytes than a header and a trailer (`30_encoding.md` R60). -/
  | requestTooShort
  /-- A command byte that is neither 0xAA nor 0xDD (`30_encoding.md` R74). -/
  | unknownCommand (command : Byte)
  /-- A read request whose length byte is not 0x0E, or that has a payload (`30_encoding.md` R73, R74). -/
  | readRequestLength
  /-- Fewer than the five bytes of the shortest response (`30_encoding.md` R71). -/
  | responseTooShort
  /-- A `startAddr` of more than `ADDR_WIDTH` bits (`93_implementation_defined.md` U8). -/
  | startAddrOutOfDomain
  /-- A `length` above `LEN_MAX` (`93_implementation_defined.md` U8). -/
  | lengthOutOfDomain
  /-- An `offset` above `LEN_MAX` (`93_implementation_defined.md` U8). -/
  | offsetOutOfDomain
  /-- A `count` above `LEN_MAX` (`93_implementation_defined.md` U8). -/
  | countOutOfDomain
  /-- An `expectedTotal` above `LEN_MAX` (`93_implementation_defined.md` U8). -/
  | expectedTotalOutOfDomain
  deriving DecidableEq, Repr

end Sys2Proof
end

