-- ==== Sys2Proof/Machine/Operands.lean ====
section
/-! DEFINITION. The operand forms: bank selectors and their codes, truncation and byte order of the address fields,
the byte order of a trailer, buffer access, the optional operands of `CRC.HASH`, and the operand domains. -/

namespace Sys2Proof

/-- `trunc_24` (`00_scope.md` R9, `30_encoding.md` R66): the low 24 bits of an exact natural number. -/
def trunc24 (a : Nat) : Addr24 := BitVec.ofNat 24 a

/-- `addr3` (`42_frame_codec.md` R113): the three bytes of an address, least significant first (`20_memory.md` R43). -/
def addr3 (a : Addr24) : List Byte :=
  [a.extractLsb' 0 8, a.extractLsb' 8 8, a.extractLsb' 16 8]

/-- The address whose bytes at increasing offsets are the three given ones (`20_memory.md` R43). -/
def addrOfBytes (b0 b1 b2 : Byte) : Addr24 := b2 ++ b1 ++ b0

/-- The four bytes of a 32-bit CRC value, most significant first (`20_memory.md` R44). -/
def trailerOfWord (c : Word) : Trailer :=
  { b0 := c.extractLsb' 24 8, b1 := c.extractLsb' 16 8, b2 := c.extractLsb' 8 8, b3 := c.extractLsb' 0 8 }

/-- A trailer's bytes at increasing offsets (`30_encoding.md` R68). -/
def trailerBytes (t : Trailer) : List Byte := [t.b0, t.b1, t.b2, t.b3]

/-- The trailer that stands in a sequence of four bytes. It is only ever given four
(`44_checksum_validator.md` R162); bytes that are not there would read as 0. -/
def trailerOfBytes (l : List Byte) : Trailer :=
  { b0 := l.getD 0 0#8, b1 := l.getD 1 0#8, b2 := l.getD 2 0#8, b3 := l.getD 3 0#8 }

/-- `bank_code` (`42_frame_codec.md` R112): the code byte of a selector, none for an unknown selector. -/
def bankCode (b : BankSelector) : Option Byte :=
  match b with
  | .sdCard => some bankSdCard
  | .eeprom => some bankEeprom
  | .cpu => some bankCpu
  | .other _ => none

/-- The selector of an index on the operation port (`42_frame_codec.md` R112, `92_eei_decisions.md` D10; DEDUCED,
entry 24). -/
def bankOfIndex (k : Nat) : BankSelector :=
  match k with
  | 0 => .sdCard
  | 1 => .eeprom
  | 2 => .cpu
  | k + 3 => .other (k + 3)

/-- The index of a selector on the operation port. -/
def indexOfBank (b : BankSelector) : Nat :=
  match b with
  | .sdCard => 0
  | .eeprom => 1
  | .cpu => 2
  | .other k => k

/-- The selector whose code a frame's bank byte is; a byte that is no bank code is an unknown selector of that value
(DESIGN CHOICE, entry 8). -/
def bankOfCode (code : Byte) : BankSelector :=
  if code = bankSdCard then .sdCard
  else if code = bankEeprom then .eeprom
  else if code = bankCpu then .cpu
  else .other code.toNat

/-- The count a read request's two address fields stand for (`30_encoding.md` R75): `trunc_24(hi - lo) + 1`. -/
def recoveredCount (lowAddr hiAddr : Addr24) : Nat := (hiAddr - lowAddr).toNat + 1

/-- `MemRead(space, addr, n)` of `00_scope.md` R9 on a byte sequence. -/
def memRead (buffer : List Byte) (addr n : Nat) : List Byte := (buffer.drop addr).take n

/-- `concat` (`00_scope.md` R9): the bytes of a list of chunks in list order. -/
def concat (chunks : List (List Byte)) : List Byte := chunks.flatten

/-- The `offset` operand of `CRC.HASH`, 0 when omitted (`30_encoding.md` R79). -/
def hashOffset (offset : Option Nat) : Nat := offset.getD 0

/-- The `count` operand of `CRC.HASH`, the rest of the buffer when omitted (`30_encoding.md` R79). The subtraction is
on natural numbers, so an omitted count beside an offset past the buffer is 0 and the range check of
`41_crc32_engine.md` R97 refuses the offset (DEDUCED, entry 18). -/
def hashCount (buffer : List Byte) (offset count : Option Nat) : Nat :=
  count.getD (buffer.length - hashOffset offset)

/-- `FRAME.EXPECTED_LEN` as a function (`42_frame_codec.md` R122). -/
def expectedResponseLength (isWrite : Bool) (length : Nat) : Nat :=
  if isWrite then ackLen else 1 + length + 4

/-- The expected response length of a send (`45_session_and_timeout.md` R176: `L` is the length or the data's). -/
def expectedOfBody (body : SendBody) : Nat :=
  match body with
  | .read length => expectedResponseLength false length
  | .write data => expectedResponseLength true (data.getD []).length

/-- A length operand is in its domain: at most `LEN_MAX` (`42_frame_codec.md` R111). -/
def Config.lenInDomain (c : Config) (n : Nat) : Bool :=
  match c.lenMax with
  | none => true
  | some m => n ≤ m

/-- An omitted length operand is in its domain, also where the default it stands for lies above `LEN_MAX` (DESIGN CHOICE,
entry 31); a given one as `Config.lenInDomain` says. -/
def Config.optLenInDomain (c : Config) (n : Option Nat) : Bool :=
  match n with
  | none => true
  | some n => c.lenInDomain n

/-- A `startAddr` operand is in its domain: `ADDR_WIDTH` bits (`42_frame_codec.md` R111). -/
def Config.addrInDomain (c : Config) (a : Nat) : Bool := a < 2 ^ c.addrWidth

/-- The length of a send's body is in its domain; a data operand has no length line. -/
def Config.bodyInDomain (c : Config) (body : SendBody) : Bool :=
  match body with
  | .read length => c.lenInDomain length
  | .write _ => true

/-- The chunk store can hold `n` bytes (`10_state.md` R15, `93_implementation_defined.md` U12). -/
def Config.storeHolds (c : Config) (n : Nat) : Bool :=
  match c.rxbufCap with
  | none => true
  | some cap => n ≤ cap

end Sys2Proof
end

