-- ==== Sys2Proof/Machine/Crc32.lean ====
section
/-! DEFINITION. The CRC32 generator's arithmetic (`41_crc32_engine.md` R92 to R95): the one-bit step of the shift
register, one byte, a byte sequence, and the pure function `crc32`. -/

namespace Sys2Proof

/-- `crc_step_bit` (`41_crc32_engine.md` R93): shift right by one; the feedback bit is bit 0 of the register
exclusive-or the data bit, and selects the polynomial. -/
def crcStepBit (c : Word) (d : Bool) : Word :=
  if (c.getLsbD 0 ^^ d) then (c >>> 1) ^^^ crcPolyReflected else c >>> 1

/-- `crc_update` (`41_crc32_engine.md` R93): the eight bits of a byte, bit 0 first. -/
def crcUpdate (c : Word) (b : Byte) : Word :=
  (List.range 8).foldl (fun r i => crcStepBit r (b.getLsbD i)) c

/-- The register after the bytes of a sequence, in increasing offset (`41_crc32_engine.md` R95, `20_memory.md` R49). -/
def crcRun (c : Word) (bytes : List Byte) : Word := bytes.foldl crcUpdate c

/-- The 32-bit CRC of a byte sequence (`41_crc32_engine.md` R95). -/
def crc32Word (bytes : List Byte) : Word := crcRun crcInit bytes ^^^ crcXorOut

/-- `crc32(B)`: the four bytes `CRC.HASH` returns for a whole buffer (`41_crc32_engine.md` R95, R99). -/
def crc32 (bytes : List Byte) : Trailer := trailerOfWord (crc32Word bytes)

end Sys2Proof
end

