-- ==== Sys2Proof/Machine/Frame.lean ====
section
/-! DEFINITION. The byte strings of the two wire formats: the header and the whole of a request frame
(`30_encoding.md` R61, `42_frame_codec.md` R113), a response (`30_encoding.md` R71), and the well-formedness predicate of
request frames (`30_encoding.md` R75). -/

namespace Sys2Proof

/-- The ten header bytes with the given field values (`30_encoding.md` R61). -/
def headerBytes (length command bank intention : Byte) (lowAddr hiAddr : Addr24) : List Byte :=
  [length, command, bank, intention] ++ addr3 lowAddr ++ addr3 hiAddr

/-- `header` (`42_frame_codec.md` R113): `n` is the payload length, `len` the range length. The sum is exact before
truncation (`42_frame_codec.md` R114). -/
def header (command : Byte) (n start len : Nat) (code intention : Byte) : List Byte :=
  headerBytes (BitVec.ofNat 8 (headerLen + n + crcLen)) command code intention (trunc24 start) (trunc24 (start + len - 1))

/-- A frame from what its trailer covers: the bytes followed by their CRC (`30_encoding.md` R68). -/
def withTrailer (bytes : List Byte) : List Byte := bytes ++ trailerBytes (crc32 bytes)

/-- The bytes of a read request with the given field values (`30_encoding.md` R69). -/
def readReqBytes (bank intention : Byte) (lowAddr hiAddr : Addr24) (crc : Trailer) : List Byte :=
  headerBytes 0x0E#8 cmdRead bank intention lowAddr hiAddr ++ trailerBytes crc

/-- The bytes of a write request with the given field values (`30_encoding.md` R70). -/
def writeReqBytes (length bank intention : Byte) (lowAddr hiAddr : Addr24) (payload : List Byte) (crc : Trailer) :
    List Byte :=
  headerBytes length cmdWrite bank intention lowAddr hiAddr ++ payload ++ trailerBytes crc

/-- The bytes of a response: status, data, CRC (`30_encoding.md` R71). -/
def responseBytes (status : Byte) (data : List Byte) (crc : Trailer) : List Byte :=
  status :: (data ++ trailerBytes crc)

/-- The byte at an offset of a frame; only ever read inside the frame. -/
def frameByte (f : List Byte) (i : Nat) : Byte := f.getD i 0#8

/-- The bank codes (`30_encoding.md` R64). -/
def isBankCode (b : Byte) : Bool := b == bankSdCard || b == bankEeprom || b == bankCpu

/-- The well-formedness predicate of request frames (`30_encoding.md` R75). -/
def isRequestFrame (f : List Byte) : Bool :=
  let lo := addrOfBytes (frameByte f 4) (frameByte f 5) (frameByte f 6)
  let hi := addrOfBytes (frameByte f 7) (frameByte f 8) (frameByte f 9)
  decide (14 ≤ f.length) && frameByte f 0 == BitVec.ofNat 8 f.length && decide (f.length ≤ maxFrame) &&
  ((frameByte f 1 == cmdRead && f.length == 14) || (frameByte f 1 == cmdWrite && decide (15 ≤ f.length))) &&
  isBankCode (frameByte f 2) &&
  f.drop (f.length - crcLen) == trailerBytes (crc32 (f.take (f.length - crcLen))) &&
  (frameByte f 1 != cmdWrite || trunc24 (lo.toNat + (f.length - 14) - 1) == hi)

end Sys2Proof
end

