-- ==== Sys2Proof/WellFormed.lean ====
section
/-! DEFINITION. Which instructions are well formed: a request's fields make a frame of `30_encoding.md` R75, a read
response has data (R71), and the operands of an operation lie in their domains (R78, `42_frame_codec.md` R111,
`93_implementation_defined.md` U8). The domains depend on the configuration. -/

namespace Sys2Proof

/-- A bank selector as the port can present it: an unknown selector is an index above 2
(`42_frame_codec.md` R112, `92_eei_decisions.md` D10). -/
def BankSelector.wellFormed (b : BankSelector) : Bool :=
  match b with
  | .sdCard => true
  | .eeprom => true
  | .cpu => true
  | .other k => 3 ≤ k

/-- The well-formed instructions under a configuration. -/
def Instr.wellFormed (c : Config) (i : Instr) : Bool :=
  match i with
  | .readReq bank intention lo hi crc => isRequestFrame (readReqBytes bank intention lo hi crc)
  | .writeReq length bank intention lo hi payload crc =>
      isRequestFrame (writeReqBytes length bank intention lo hi payload crc)
  | .readRsp _ data _ => 1 ≤ data.length
  | .writeAck _ _ => true
  | .crcHash _ offset count => c.optLenInDomain offset && c.optLenInDomain count
  | .buildRead startAddr length bank _ => c.addrInDomain startAddr && c.lenInDomain length && bank.wellFormed
  | .buildWrite startAddr _ bank _ => c.addrInDomain startAddr && bank.wellFormed
  | .expectedLen _ length => c.lenInDomain length
  | .rxReset expectedTotal => c.lenInDomain expectedTotal
  | .rxChunk _ => true
  | .chkValidate _ checksumLength => checksumLength == crcLen
  | .chkDiag => true
  | .txnSend body startAddr bank _ _ _ => c.bodyInDomain body && c.addrInDomain startAddr && bank.wellFormed
  | .tmoPoll _ => true
  | .tmoDecide _ => true

end Sys2Proof
end

