-- ==== Sys2Proof/Decode.lean ====
section
/-! DEFINITION. The decoder, total on whatever is presented and refusing by name, the encoder, written from the same
tables (`30_encoding.md` R61, R71, R73, R76; `opcode_table.json`), and the table words the host asks about. -/

namespace Sys2Proof

/-- A request frame (`30_encoding.md` R61, R73). The row is found as `opcode_table.json` says: a read request by its
length byte 0x0E and its command byte 0xAA, a write request by its command byte 0xDD with the length byte a field.
The payload is what stands between the header and the last four bytes. -/
def decodeRequest (f : List Byte) : Except DecodeError Instr :=
  match f with
  | length :: command :: bank :: intention :: l0 :: l1 :: l2 :: h0 :: h1 :: h2 :: rest =>
      let payload := rest.take (rest.length - crcLen)
      let crc := trailerOfBytes (rest.drop (rest.length - crcLen))
      let lo := addrOfBytes l0 l1 l2
      let hi := addrOfBytes h0 h1 h2
      if rest.length < crcLen then .error .requestTooShort
      else if command = cmdRead then
        if length = 0x0E#8 ∧ payload = [] then .ok (.readReq bank intention lo hi crc)
        else .error .readRequestLength
      else if command = cmdWrite then .ok (.writeReq length bank intention lo hi payload crc)
      else .error (.unknownCommand command)
  | _ => .error .requestTooShort

/-- A response (`30_encoding.md` R71): no bit of it identifies it (R72), and only its length tells an acknowledgement
of five bytes from the answer to a read. -/
def decodeResponse (bytes : List Byte) : Except DecodeError Instr :=
  match bytes with
  | status :: rest =>
      let data := rest.take (rest.length - crcLen)
      let crc := trailerOfBytes (rest.drop (rest.length - crcLen))
      if rest.length < crcLen then .error .responseTooShort
      else if data = [] then .ok (.writeAck status crc)
      else .ok (.readRsp status data crc)
  | [] => .error .responseTooShort

/-- The body of a send from its operand lines (`30_encoding.md` R78: `isWrite`, `lengthOrData`). -/
def bodyOfLines (lines : OperandLines) : SendBody :=
  if lines.isWrite then .write lines.data else .read lines.length

/-- An operation select with its operand lines (`30_encoding.md` R76): the select names the operation, whose operands
must lie in their domains (`93_implementation_defined.md` U8; DESIGN CHOICE, entry 17); 0x0 and 0xC to 0xF are reserved (R77). -/
def decodeOp (c : Config) (select : BitVec 4) (x : OperandLines) : Except DecodeError Instr :=
  match select.toNat with
  | 0x1 =>
      if !c.optLenInDomain x.offset then .error .offsetOutOfDomain
      else if !c.optLenInDomain x.count then .error .countOutOfDomain
      else .ok (.crcHash x.bytes x.offset x.count)
  | 0x2 =>
      if !c.addrInDomain x.startAddr then .error .startAddrOutOfDomain
      else if !c.lenInDomain x.length then .error .lengthOutOfDomain
      else .ok (.buildRead x.startAddr x.length (bankOfIndex x.bank) x.intention)
  | 0x3 =>
      if !c.addrInDomain x.startAddr then .error .startAddrOutOfDomain
      else .ok (.buildWrite x.startAddr x.data (bankOfIndex x.bank) x.intention)
  | 0x4 =>
      if !c.lenInDomain x.length then .error .lengthOutOfDomain
      else .ok (.expectedLen x.isWrite x.length)
  | 0x5 =>
      if !c.lenInDomain x.expectedTotal then .error .expectedTotalOutOfDomain
      else .ok (.rxReset x.expectedTotal)
  | 0x6 => .ok (.rxChunk x.chunk)
  | 0x7 => .ok (.chkValidate x.chunks (x.checksumLength.getD crcLen))
  | 0x8 => .ok .chkDiag
  | 0x9 =>
      if !c.bodyInDomain (bodyOfLines x) then .error .lengthOutOfDomain
      else if !c.addrInDomain x.startAddr then .error .startAddrOutOfDomain
      else .ok (.txnSend (bodyOfLines x) x.startAddr (bankOfIndex x.bank) x.intention x.now x.ready)
  | 0xA => .ok (.tmoPoll x.now)
  | 0xB => .ok (.tmoDecide x.goOn)
  | _ => .error (.reservedSelect select)

/-- The decoder. -/
def decode (c : Config) (p : Presented) : Except DecodeError Instr :=
  match p with
  | .op select lines => decodeOp c select lines
  | .request frame => decodeRequest frame
  | .response bytes => decodeResponse bytes

/-- The encoder: what presents an instruction. -/
def encode (i : Instr) : Presented :=
  match i with
  | .readReq bank intention lo hi crc => .request (readReqBytes bank intention lo hi crc)
  | .writeReq length bank intention lo hi payload crc =>
      .request (writeReqBytes length bank intention lo hi payload crc)
  | .readRsp status data crc => .response (responseBytes status data crc)
  | .writeAck status crc => .response (responseBytes status [] crc)
  | .crcHash bytes offset count => .op 0x1#4 { bytes := bytes, offset := offset, count := count }
  | .buildRead startAddr length bank intention =>
      .op 0x2#4 { startAddr := startAddr, length := length, bank := indexOfBank bank, intention := intention }
  | .buildWrite startAddr data bank intention =>
      .op 0x3#4 { startAddr := startAddr, data := data, bank := indexOfBank bank, intention := intention }
  | .expectedLen isWrite length => .op 0x4#4 { isWrite := isWrite, length := length }
  | .rxReset expectedTotal => .op 0x5#4 { expectedTotal := expectedTotal }
  | .rxChunk chunk => .op 0x6#4 { chunk := chunk }
  | .chkValidate chunks checksumLength => .op 0x7#4 { chunks := chunks, checksumLength := some checksumLength }
  | .chkDiag => .op 0x8#4 {}
  | .txnSend (.read length) startAddr bank intention now ready =>
      .op 0x9#4 { startAddr := startAddr, isWrite := false, length := length, bank := indexOfBank bank,
                  intention := intention, now := now, ready := ready }
  | .txnSend (.write data) startAddr bank intention now ready =>
      .op 0x9#4 { startAddr := startAddr, isWrite := true, data := data, bank := indexOfBank bank,
                  intention := intention, now := now, ready := ready }
  | .tmoPoll now => .op 0xA#4 { now := now }
  | .tmoDecide goOn => .op 0xB#4 { goOn := goOn }

/-- What an opcode-table word presents, every bit above `nbits` zero (entry 29). A word of no bits is a response, of
five zero bytes. A value of at most four bits is an operation select with idle operand lines. Any other value holds
the first two bytes of a request frame as the table counts them, `F[0] * 256 + F[1]` (`30_encoding.md` R73), and zero
bytes follow up to the shortest frame of that command: 14 bytes, or 15 for a write. -/
def presentTableWord (nbits w : Nat) : Presented :=
  if nbits = 0 then .response (List.replicate 5 0#8)
  else if w < 16 then .op (BitVec.ofNat 4 w) {}
  else
    .request (BitVec.ofNat 8 (w / 256) :: BitVec.ofNat 8 w ::
      List.replicate (if BitVec.ofNat 8 w = cmdWrite then 13 else 12) 0#8)

/-- The instruction the decoder reads from an opcode-table word. -/
def decodeTableWord (nbits w : Nat) : Option Instr :=
  match decode Config.standard (presentTableWord nbits w) with
  | .ok i => some i
  | .error _ => none

end Sys2Proof
end

