-- ==== Sys2Proof/Machine/State.lean ====
section
/-! DEFINITION. The state of the block (`10_state.md`), its errors and events (`60_exceptions.md`), the reasons a step
can stop, and reset (`10_state.md` R26, `70_reset_and_hazards.md` R240). Plain data throughout. -/

namespace Sys2Proof.Machine

/-- `RX_STATE` (`10_state.md` R14). -/
inductive RxState where
  | idle
  | accumulating
  | completed
  | overrun
  deriving DecidableEq, Repr

/-- `TMO_STATE` (`10_state.md` R22). -/
inductive TmoState where
  | halted
  | waiting
  | awaitingDecision
  | aborted
  | completed
  deriving DecidableEq, Repr

/-- The sub-causes of `InvalidArgument` (`60_exceptions.md` R200). -/
inductive InvalidCause where
  | zeroLength
  | nullBuffer
  | range
  deriving DecidableEq, Repr

/-- The errors with the information each records (`60_exceptions.md` R200). -/
inductive Error where
  /-- R201. -/
  | invalidArgument (cause : InvalidCause)
  /-- R202: the selector value. -/
  | unknownBank (selector : Nat)
  /-- R203: the total and the limit. -/
  | frameTooLarge (total limit : Nat)
  /-- R204: the received count and the expected count. -/
  | receiveOverrun (received expected : Nat)
  /-- R205: the recomputed CRC and the received one. -/
  | checksumMismatch (expected received : Trailer)
  /-- R206. -/
  | transportNotReady
  /-- R207. -/
  | timeoutAborted
  /-- R208: the concatenated length and `checksumLength`. -/
  | rangeError (total checksumLength : Nat)
  /-- R209. -/
  | sessionBusy
  deriving DecidableEq, Repr

/-- The events, the block's only asynchronous outputs (`60_exceptions.md` R215). -/
inductive Event where
  | progress (chunk : List Byte)
  | completed (total : Nat)
  | checksumOk
  | error (e : Error)
  | decisionRequest (elapsedMs attempt : Nat)
  | supervisorCompleted (elapsedMs : Nat)
  | supervisorAborted
  deriving DecidableEq, Repr

/-- What an operation answers its invoker (`30_encoding.md` R78): nothing, its result, or its error
(`60_exceptions.md` R210). -/
inductive Answer where
  | nothing
  /-- `CRC.HASH`. -/
  | crc (value : Trailer)
  /-- The frame builds. -/
  | frame (bytes : List Byte)
  /-- `FRAME.EXPECTED_LEN`. -/
  | count (n : Nat)
  /-- `CHK.VALIDATE`. -/
  | verdict (ok : Bool)
  /-- `CHK.DIAG`: with `valid` false there are no values (`44_checksum_validator.md` R165). -/
  | diag (valid : Bool) (expected received : Option Trailer)
  | error (e : Error)
  deriving DecidableEq, Repr

/-- A byte buffer as cells, offsets strictly rising. An unlisted offset has no value (entry 12). -/
abbrev Memory := List Host.Cell

/-- `TXF` and `TX_LEN` (`10_state.md` R13). -/
structure TxBuffer where
  buf : Memory
  len : Nat
  deriving DecidableEq, Repr

/-- The receive session (`10_state.md` R14 to R17). The counters have no bound: DESIGN CHOICE (entry 20). -/
structure ReceiveSession where
  state : RxState
  chunks : List (List Byte)
  total : Nat
  expected : Nat
  deriving DecidableEq, Repr

/-- The validator's last-computed pair (`10_state.md` R19). -/
structure DiagPair where
  expected : Trailer
  received : Trailer
  valid : Bool
  deriving DecidableEq, Repr

/-- The timeout state (`10_state.md` R22). The counters have no bound: DESIGN CHOICE (entry 20). -/
structure Timeout where
  state : TmoState
  thresholdMs : Nat
  mult : Nat
  attempt : Nat
  start : Nat
  deriving DecidableEq, Repr

/-- The state of the block and its agents. `cfg`, `port`, `answer`, `events` and `sent` are its configuration
(entry 3), inputs (entry 1) and outputs (entry 9); all else is the spec's own state. -/
structure State where
  cfg : Config
  /-- What the agents and the wires have presented and no step has taken, oldest first (entry 1). -/
  port : List Presented
  /-- `CRC_REG` (`10_state.md` R12). -/
  crcReg : Word
  tx : TxBuffer
  rx : ReceiveSession
  chk : DiagPair
  /-- `BUSY` (`10_state.md` R21). -/
  busy : Bool
  tmo : Timeout
  /-- The answer of the latest operation (entry 9). -/
  answer : Answer
  /-- The output event stream, oldest first (`00_scope.md` R9, `60_exceptions.md` R215). -/
  events : List Event
  /-- The frames the transport has taken, oldest first (`60_exceptions.md` R220). -/
  sent : List (List Byte)
  deriving DecidableEq, Repr

/-- The ways the machine stops with a fault. -/
inductive Fault where
  /-- Raised by `TMO.DECIDE` when no decision is awaited: the operation has no step there
  (`45_session_and_timeout.md` R183, `93_implementation_defined.md` U6; DEDUCED, entry 15). Safe: the model stops. -/
  | noDecisionAwaited
  deriving DecidableEq, Repr

/-- The ways an instruction is refused. -/
inductive Refusal where
  /-- Raised by an arm of `exec` whose instruction has no meaning yet. Safe. -/
  | notModelled (mnemonic : String)
  /-- Raised by `step` when the decoder refuses what is presented (`30_encoding.md` R77, `93_implementation_defined.md`
  U8, U9). Safe. -/
  | undecodable (why : DecodeError)
  /-- Raised by `CHK.VALIDATE` for a `checksumLength` other than 4 (`44_checksum_validator.md` R166). Safe. -/
  | checksumLengthFixed (checksumLength : Nat)
  /-- Raised by `READ_REQ` and `WRITE_REQ` for a frame no build can make (`30_encoding.md` R74, entry 6). Safe. -/
  | frameNeverEmitted
  /-- Raised by `RX.RESET` and `TXN.SEND` for an expected total above a finite `RXBUF_CAP`
  (`93_implementation_defined.md` U12). Safe. -/
  | sessionExceedsStore
  /-- Raised by `RX.CHUNK`, `READ_RSP` and `WRITE_ACK` when a finite `RXBUF_CAP` cannot take the chunk
  (`93_implementation_defined.md` U12). Safe. -/
  | chunkExceedsStore
  deriving DecidableEq, Repr

/-- The block right after reset under a configuration (`10_state.md` R26, `70_reset_and_hazards.md` R240). The four
registers the spec leaves unspecified hold the opaque constants of `Config` (DESIGN CHOICE, entry 11), `TXF` holds no
value (entry 12), and the model's own inputs and outputs are empty (DESIGN CHOICE, entries 1 and 9). -/
def State.resetWith (c : Config) : State where
  cfg := c
  port := []
  crcReg := Config.crcRegAtReset
  tx := { buf := [], len := 0 }
  rx := { state := .idle, chunks := [], total := 0, expected := 0 }
  chk := { expected := Config.chkExpectedAtReset, received := Config.chkReceivedAtReset, valid := false }
  busy := false
  tmo := { state := .halted, thresholdMs := c.baseTimeoutMs, mult := 1, attempt := 1, start := Config.tmoStartAtReset }
  answer := .nothing
  events := []
  sent := []

/-- Reset with every parameter at its default (`00_scope.md` R8). -/
def State.reset : State := State.resetWith Config.standard

end Sys2Proof.Machine
end

