-- ==== Sys2Proof/Machine/Flags.lean ====
section
/-! DEFINITION. The single-bit status values and comparisons (`10_state.md` R18, R23), the views of state, the
numeric codes the spec offers a hardware build, and where each event goes (`60_exceptions.md` R215). -/

namespace Sys2Proof.Machine

/-- `ENDED` (`10_state.md` R18): a projection of `RX_STATE`, 1 exactly in `Completed` and `Overrun`. -/
def State.ended (s : State) : Bool :=
  match s.rx.state with
  | .idle => false
  | .accumulating => false
  | .completed => true
  | .overrun => true

/-- `RXBUF` (`20_memory.md` R40): the response bytes in arrival order, a view of `RX_CHUNKS`. -/
def State.rxBuf (s : State) : List Byte := concat s.rx.chunks

/-- The supervisor runs: `TMO_STATE` is `Waiting` or `AwaitingDecision` (`10_state.md` R21). -/
def TmoState.running (t : TmoState) : Bool :=
  match t with
  | .halted => false
  | .waiting => true
  | .awaitingDecision => true
  | .aborted => false
  | .completed => false

/-- The comparison of `44_checksum_validator.md` R163: every byte with the corresponding byte. -/
def trailersMatch (expected received : Trailer) : Bool :=
  expected.b0 == received.b0 && expected.b1 == received.b1 && expected.b2 == received.b2 && expected.b3 == received.b3

/-- The elapsed time of a poll (`45_session_and_timeout.md` R181). Where `now` lies before the start the spec states
no result and the value is free (entry 14). -/
def elapsedSince (start now : Nat) : Nat :=
  if start ≤ now then now - start else Config.elapsedBeforeStart now start

/-- The 2-bit encoding of `RX_STATE` offered for hardware (`10_state.md` R14). -/
def RxState.code (r : RxState) : BitVec 2 :=
  match r with
  | .idle => 0#2
  | .accumulating => 1#2
  | .completed => 2#2
  | .overrun => 3#2

/-- The numeric code of an error (`60_exceptions.md` R200). -/
def Error.code (e : Error) : Nat :=
  match e with
  | .invalidArgument _ => 1
  | .unknownBank _ => 2
  | .frameTooLarge _ _ => 3
  | .receiveOverrun _ _ => 4
  | .checksumMismatch _ _ => 5
  | .transportNotReady => 6
  | .timeoutAborted => 7
  | .rangeError _ _ => 8
  | .sessionBusy => 9

/-- The error an event reports, if it reports one: `SupervisorAborted` is the error `TimeoutAborted`
(`60_exceptions.md` R207, R211). -/
def Event.reports (v : Event) : Option Error :=
  match v with
  | .progress _ => none
  | .completed _ => none
  | .checksumOk => none
  | .error e => some e
  | .decisionRequest _ _ => none
  | .supervisorCompleted _ => none
  | .supervisorAborted => some .timeoutAborted

/-- What an event is delivered to (`60_exceptions.md` R215, R220 to R222). -/
inductive Collaborator where
  | displayOnProgress
  | displayOnError
  | sessionAndSupervisor
  | caller
  | continueAfterTimeout
  | onCompleted
  | onAborted
  deriving DecidableEq, Repr

/-- Every event has one fixed destination (`60_exceptions.md` R215, R216; DEDUCED, entry 26). -/
def Event.destination (v : Event) : Collaborator :=
  match v with
  | .progress _ => .displayOnProgress
  | .completed _ => .sessionAndSupervisor
  | .checksumOk => .caller
  | .error _ => .displayOnError
  | .decisionRequest _ _ => .continueAfterTimeout
  | .supervisorCompleted _ => .onCompleted
  | .supervisorAborted => .onAborted

end Sys2Proof.Machine
end

