-- ==== Sys2Proof/Machine/Ops.lean ====
section
/-! DEFINITION. The named operations the meanings share: the transmit buffer, answering, raising an error, emitting an
event, the frame builds, the receive session, the validator's pair, and the supervisor's timeout state. -/

namespace Sys2Proof.Machine

/-- The outcomes of this machine. -/
abbrev Outcome := Host.Outcome State Fault Refusal

/-! ### The transmit buffer as memory (`20_memory.md` R40, entry 12) -/

/-- The byte at an offset; none where nothing has been written. -/
def Memory.read (m : Memory) (a : Nat) : Option Byte :=
  match m with
  | [] => none
  | (b, w) :: rest => if a = b then some w else Memory.read rest a

/-- Store a byte at an offset, keeping offsets strictly rising. -/
def Memory.write (m : Memory) (a : Nat) (v : Byte) : Memory :=
  match m with
  | [] => [(a, v)]
  | (b, w) :: rest =>
      if a < b then (a, v) :: (b, w) :: rest
      else if a = b then (a, v) :: rest
      else (b, w) :: Memory.write rest a v

/-- `MemWrite(space, addr, n, v)` of `00_scope.md` R9: the bytes at increasing offsets from `a`. -/
def Memory.writeBytes (m : Memory) (a : Nat) (bytes : List Byte) : Memory :=
  match bytes with
  | [] => m
  | v :: rest => Memory.writeBytes (Memory.write m a v) (a + 1) rest

/-- `MemRead(space, addr, n)` of `00_scope.md` R9 on the buffer: the written bytes of the range, lowest offset first. -/
def Memory.readBytes (m : Memory) (a n : Nat) : List Byte :=
  match n with
  | 0 => []
  | n + 1 => (Memory.read m a).toList ++ Memory.readBytes m (a + 1) n

/-- The canonical form: offsets strictly rising and inside the 250 bytes of `TXF` (`10_state.md` R13). -/
def Memory.wf (m : Memory) : Bool :=
  match m with
  | [] => true
  | (a, _) :: rest =>
      decide (a < maxFrame) && (match rest with | [] => true | (b, _) :: _ => decide (a < b)) && Memory.wf rest

/-! ### Results, errors, events -/

/-- The operation ends with a result for its invoker (`30_encoding.md` R78). -/
def State.answerWith (s : State) (a : Answer) : State := { s with answer := a }

/-- TAKING AN ERROR (`60_exceptions.md` R210): the operation ends with the error as its result. There is no saved
context, no handler address, no change of mode and no mask, and no state element is written. Nothing is returned from
(`60_exceptions.md` R213), so there is no operation for a return. -/
def State.raise (s : State) (e : Error) : State := s.answerWith (.error e)

/-- `emit` (`00_scope.md` R9): the event goes to the end of the output event stream. -/
def State.emit (s : State) (v : Event) : State := { s with events := s.events ++ [v] }

/-! ### Building and sending a frame -/

/-- `FRAME.BUILD_READ` as a function (`42_frame_codec.md` R120), the checks in the order of R115. -/
def buildReadFrame (startAddr length : Nat) (bank : BankSelector) (intention : Byte) : Except Error (List Byte) :=
  if length < 1 then .error (.invalidArgument .zeroLength)
  else
    match bankCode bank with
    | none => .error (.unknownBank (indexOfBank bank))
    | some code => .ok (withTrailer (header cmdRead 0 startAddr length code intention))

/-- `FRAME.BUILD_WRITE` as a function (`42_frame_codec.md` R121), the checks in the order of R115. Absent data is reported
before an unknown bank, a rank that R115 does not give (DESIGN CHOICE, entry 32). -/
def buildWriteFrame (startAddr : Nat) (data : Option (List Byte)) (bank : BankSelector) (intention : Byte) :
    Except Error (List Byte) :=
  match data with
  | none => .error (.invalidArgument .nullBuffer)
  | some d =>
      if d.length < 1 then .error (.invalidArgument .zeroLength)
      else
        match bankCode bank with
        | none => .error (.unknownBank (indexOfBank bank))
        | some code =>
            if maxFrame < headerLen + d.length + crcLen then
              .error (.frameTooLarge (headerLen + d.length + crcLen) maxFrame)
            else .ok (withTrailer (header cmdWrite d.length startAddr d.length code intention ++ d))

/-- The build a send performs (`45_session_and_timeout.md` R176). -/
def buildForSend (body : SendBody) (startAddr : Nat) (bank : BankSelector) (intention : Byte) :
    Except Error (List Byte) :=
  match body with
  | .read length => buildReadFrame startAddr length bank intention
  | .write data => buildWriteFrame startAddr data bank intention

/-- A built frame stands in `TXF` from offset 0 and `TX_LEN` is its length (`10_state.md` R13). Bytes past the frame
stay as they were (DEDUCED, entry 13). -/
def State.present (s : State) (f : List Byte) : State :=
  { s with tx := { buf := Memory.writeBytes s.tx.buf 0 f, len := f.length } }

/-- The frame that stands in `TXF` (`20_memory.md` R40). -/
def State.frameInTx (s : State) : List Byte := Memory.readBytes s.tx.buf 0 s.tx.len

/-- `Transport.send` (`60_exceptions.md` R220, `20_memory.md` R46, R49): the transport takes the whole frame in one
call, offset 0 first, and the buffer no longer holds a frame (`10_state.md` R13, "until the transport has taken it";
DEDUCED, entry 13). The transport is assumed to take all of it (`93_implementation_defined.md` U13, entry 21). -/
def State.transportSend (s : State) : State :=
  { s with sent := s.sent ++ [s.frameInTx], tx := { s.tx with len := 0 } }

/-- A build operation ends: its frame is presented and is its result, or its error is raised. -/
def State.endBuild (s : State) (built : Except Error (List Byte)) : State :=
  match built with
  | .error e => s.raise e
  | .ok f => (s.present f).answerWith (.frame f)

/-! ### The validator (`44_checksum_validator.md`) -/

/-- The bytes before the trailer (`44_checksum_validator.md` R162). -/
def checkedPayload (all : List Byte) : List Byte := all.take (all.length - crcLen)

/-- The trailer split off (`44_checksum_validator.md` R162). -/
def receivedTrailer (all : List Byte) : Trailer := trailerOfBytes (all.drop (all.length - crcLen))

/-- The pair `CHK.VALIDATE` writes on every return (`44_checksum_validator.md` R164). -/
def pairOf (all : List Byte) : DiagPair :=
  { expected := crc32 (checkedPayload all), received := receivedTrailer all, valid := true }

/-- Write the diagnostic pair and `CHK_VALID`. -/
def State.latchPair (s : State) (p : DiagPair) : State := { s with chk := p }

/-! ### The receive session (`43_receive_assembler.md`) -/

/-- `RX.RESET` as a state change (`43_receive_assembler.md` R140). -/
def State.openSession (s : State) (expectedTotal : Nat) : State :=
  { s with rx := { state := .accumulating, chunks := [], total := 0, expected := expectedTotal } }

/-- Write `RX_STATE`. -/
def State.setRxState (s : State) (r : RxState) : State := { s with rx := { s.rx with state := r } }

/-- Append a chunk as one list element and count it (`43_receive_assembler.md` R141). -/
def State.appendChunk (s : State) (chunk : List Byte) : State :=
  { s with rx := { s.rx with chunks := s.rx.chunks ++ [chunk], total := s.rx.total + chunk.length } }

/-- The validation of a completed session, when `RX_CRC_CHECK` is enabled (`43_receive_assembler.md` R147). -/
def State.validateSession (s : State) : State :=
  let all := s.rxBuf
  if all.length ≤ crcLen then s.emit (.error (.rangeError s.rx.total crcLen))
  else
    let p := pairOf all
    if trailersMatch p.expected p.received then (s.latchPair p).emit .checksumOk
    else (s.latchPair p).emit (.error (.checksumMismatch p.expected p.received))

/-- What an appended chunk leads to: completion, overrun or neither (`43_receive_assembler.md` R141, R142). -/
def State.judgeSession (s : State) : State :=
  if s.rx.total = s.rx.expected then
    let s' := (s.setRxState .completed).emit (.completed s.rx.total)
    if s.cfg.rxCrcCheck then s'.validateSession else s'
  else if s.rx.expected < s.rx.total then
    (s.setRxState .overrun).emit (.error (.receiveOverrun s.rx.total s.rx.expected))
  else s

/-- A chunk reaches the assembler (`43_receive_assembler.md` R141): outside `Accumulating` it is dropped (R143, R144).
A finite store that cannot take it refuses (`93_implementation_defined.md` U12, entry 16). -/
def receiveChunk (chunk : List Byte) (s : State) : Outcome :=
  match s.rx.state with
  | .idle => .next (s.answerWith .nothing)
  | .completed => .next (s.answerWith .nothing)
  | .overrun => .next (s.answerWith .nothing)
  | .accumulating =>
      if s.cfg.storeHolds (s.rx.total + chunk.length) then
        .next ((((s.appendChunk chunk).emit (.progress chunk)).judgeSession).answerWith .nothing)
      else .refused .chunkExceedsStore

/-! ### The supervisor's timeout state (`45_session_and_timeout.md`) -/

/-- Write `BUSY`. -/
def State.setBusy (s : State) (b : Bool) : State := { s with busy := b }

/-- Write `TMO_STATE`. -/
def State.setTmoState (s : State) (t : TmoState) : State := { s with tmo := { s.tmo with state := t } }

/-- The supervisor is started (`45_session_and_timeout.md` R176). -/
def State.startSupervisor (s : State) (now : Nat) : State :=
  { s with tmo := { state := .waiting, thresholdMs := s.cfg.baseTimeoutMs, mult := 1, attempt := 1, start := now } }

/-- The supervisor halts in a state: `BUSY` is cleared (`10_state.md` R21). -/
def State.haltSupervisor (s : State) (t : TmoState) : State := (s.setTmoState t).setBusy false

/-- A "continue": the multiplier doubles, the threshold follows it, the attempt is counted
(`45_session_and_timeout.md` R183). -/
def State.escalate (s : State) : State :=
  { s with tmo := { s.tmo with
      state := .waiting, mult := s.tmo.mult * 2, thresholdMs := s.cfg.baseTimeoutMs * (s.tmo.mult * 2),
      attempt := s.tmo.attempt + 1 } }

end Sys2Proof.Machine
end

