-- ==== Sys2Proof/Machine/ChecksumValidator.lean ====
section
/-! DEFINITION. The meanings of the checksum validator's operations (`44_checksum_validator.md` R160 to R166). -/

namespace Sys2Proof.Machine

/-- `CHK.VALIDATE` (`44_checksum_validator.md` R160): any `checksumLength` but 4 is refused (R166), a concatenation of at
most four bytes raises (R161), and every return writes the pair (R164). -/
def execChkValidate (chunks : List (List Byte)) (checksumLength : Nat) (s : State) : Outcome :=
  if checksumLength ≠ crcLen then .refused (.checksumLengthFixed checksumLength)
  else
    let all := concat chunks
    if all.length ≤ checksumLength then .next (s.raise (.rangeError all.length checksumLength))
    else
      let p := pairOf all
      .next ((s.latchPair p).answerWith (.verdict (trailersMatch p.expected p.received)))

/-- `CHK.DIAG` (`44_checksum_validator.md` R165): with `CHK_VALID` = 0 no values are returned. -/
def execChkDiag (s : State) : Outcome :=
  if s.chk.valid then .next (s.answerWith (.diag true (some s.chk.expected) (some s.chk.received)))
  else .next (s.answerWith (.diag false none none))

end Sys2Proof.Machine
end

