-- ==== Sys2Proof/Machine/Crc32Engine.lean ====
section
/-! DEFINITION. The meaning of `CRC.HASH` (`41_crc32_engine.md` R95 to R99). -/

namespace Sys2Proof.Machine

/-- `CRC.HASH` (`41_crc32_engine.md` R95): absent buffer (R96), range (R97), then the bytes of the range. `CRC_REG` keeps
the register value before the final exclusive-or (DEDUCED, entry 10). -/
def execCrcHash (bytes : Option (List Byte)) (offset count : Option Nat) (s : State) : Outcome :=
  match bytes with
  | none => .next (s.raise (.invalidArgument .nullBuffer))
  | some buffer =>
      let o := hashOffset offset
      let n := hashCount buffer offset count
      if buffer.length < o + n then .next (s.raise (.invalidArgument .range))
      else
        let reg := crcRun crcInit (memRead buffer o n)
        .next ({ s with crcReg := reg }.answerWith (.crc (trailerOfWord (reg ^^^ crcXorOut))))

end Sys2Proof.Machine
end

