-- ==== Sys2Proof/Machine/FrameCodec.lean ====
section
/-! DEFINITION. The meanings of the frame codec's operations (`42_frame_codec.md` R110 to R122) and of the two request
rows of the wire's opcode map (`30_encoding.md` R69, R70, R73, R74). -/

namespace Sys2Proof.Machine

/-- `FRAME.BUILD_READ` (`42_frame_codec.md` R120). -/
def execBuildRead (startAddr length : Nat) (bank : BankSelector) (intention : Byte) (s : State) : Outcome :=
  .next (s.endBuild (buildReadFrame startAddr length bank intention))

/-- `FRAME.BUILD_WRITE` (`42_frame_codec.md` R121). -/
def execBuildWrite (startAddr : Nat) (data : Option (List Byte)) (bank : BankSelector) (intention : Byte) (s : State) :
    Outcome :=
  .next (s.endBuild (buildWriteFrame startAddr data bank intention))

/-- `FRAME.EXPECTED_LEN` (`42_frame_codec.md` R122). -/
def execExpectedLen (isWrite : Bool) (length : Nat) (s : State) : Outcome :=
  .next (s.answerWith (.count (expectedResponseLength isWrite length)))

/-- The encoder is asked for one whole frame (entry 6): the build it stands for raises its error
(`30_encoding.md` R74, "refused at the operand"), or makes a frame. If that is the frame asked for, it is presented;
otherwise no build can emit the frame and the spec gives it no effect. -/
def emitFrame (wanted : List Byte) (built : Except Error (List Byte)) (s : State) : Outcome :=
  match built with
  | .error e => .next (s.raise e)
  | .ok f => if f = wanted then .next (s.endBuild built) else .refused .frameNeverEmitted

/-- `READ_REQ` (`30_encoding.md` R69): the read request with these fields, built by `FRAME.BUILD_READ` (R73) from the
start address and the count its address fields stand for (R75). DESIGN CHOICE (entry 6). -/
def execReadReq (bank intention : Byte) (lowAddr hiAddr : Addr24) (crc : Trailer) (s : State) : Outcome :=
  emitFrame (readReqBytes bank intention lowAddr hiAddr crc)
    (buildReadFrame lowAddr.toNat (recoveredCount lowAddr hiAddr) (bankOfCode bank) intention) s

/-- `WRITE_REQ` (`30_encoding.md` R70): the write request with these fields, built by `FRAME.BUILD_WRITE` (R73) from the
start address and the payload. DESIGN CHOICE (entry 6). -/
def execWriteReq (length bank intention : Byte) (lowAddr hiAddr : Addr24) (payload : List Byte) (crc : Trailer)
    (s : State) : Outcome :=
  emitFrame (writeReqBytes length bank intention lowAddr hiAddr payload crc)
    (buildWriteFrame lowAddr.toNat (some payload) (bankOfCode bank) intention) s

end Sys2Proof.Machine
end

