-- ==== Sys2Proof/Machine/ReceiveAssembler.lean ====
section
/-! DEFINITION. The meanings of the receive assembler's operations (`43_receive_assembler.md` R140 to R147) and of the
two response rows (`30_encoding.md` R71). -/

namespace Sys2Proof.Machine

/-- `RX.RESET` (`43_receive_assembler.md` R140), legal in every state. A finite store refuses a session it cannot hold
(`93_implementation_defined.md` U12, entry 16). -/
def execRxReset (expectedTotal : Nat) (s : State) : Outcome :=
  if s.cfg.storeHolds expectedTotal then .next ((s.openSession expectedTotal).answerWith .nothing)
  else .refused .sessionExceedsStore

/-- `RX.CHUNK` (`43_receive_assembler.md` R141). -/
def execRxChunk (chunk : List Byte) (s : State) : Outcome := receiveChunk chunk s

/-- `READ_RSP` (`30_encoding.md` R71): the whole response arrives as one chunk. DESIGN CHOICE (entry 7): the spec leaves
the chunking to the transport (`60_exceptions.md` R220); every other chunking is a sequence of `RX.CHUNK`. -/
def execReadRsp (status : Byte) (data : List Byte) (crc : Trailer) (s : State) : Outcome :=
  receiveChunk (responseBytes status data crc) s

/-- `WRITE_ACK` (`30_encoding.md` R71): the five bytes arrive as one chunk. DESIGN CHOICE (entry 7). -/
def execWriteAck (status : Byte) (crc : Trailer) (s : State) : Outcome :=
  receiveChunk (responseBytes status [] crc) s

end Sys2Proof.Machine
end

