-- ==== Sys2Proof/Machine/TimeoutSupervisor.lean ====
section
/-! DEFINITION. The meanings of `TMO.POLL` and `TMO.DECIDE` (`45_session_and_timeout.md` R180 to R187). -/

namespace Sys2Proof.Machine

/-- One turn of the loop while `Waiting` (`45_session_and_timeout.md` R181): completion is seen before overrun, and both
before the threshold. -/
def State.pollWaiting (s : State) (now : Nat) : State :=
  let elapsed := elapsedSince s.tmo.start now
  match s.rx.state with
  | .completed => (s.haltSupervisor .completed).emit (.supervisorCompleted elapsed)
  | .overrun => s.haltSupervisor .halted
  | .idle =>
      if s.tmo.thresholdMs ≤ elapsed then
        (s.setTmoState .awaitingDecision).emit (.decisionRequest s.tmo.thresholdMs s.tmo.attempt)
      else s
  | .accumulating =>
      if s.tmo.thresholdMs ≤ elapsed then
        (s.setTmoState .awaitingDecision).emit (.decisionRequest s.tmo.thresholdMs s.tmo.attempt)
      else s

/-- `TMO.POLL` (`45_session_and_timeout.md` R181): nothing outside `Waiting`. -/
def execTmoPoll (now : Nat) (s : State) : Outcome :=
  match s.tmo.state with
  | .halted => .next (s.answerWith .nothing)
  | .waiting => .next ((s.pollWaiting now).answerWith .nothing)
  | .awaitingDecision => .next (s.answerWith .nothing)
  | .aborted => .next (s.answerWith .nothing)
  | .completed => .next (s.answerWith .nothing)

/-- `TMO.DECIDE` (`45_session_and_timeout.md` R183): it has a step only while a decision is awaited
(DEDUCED, entry 15). -/
def execTmoDecide (goOn : Bool) (s : State) : Outcome :=
  match s.tmo.state with
  | .awaitingDecision =>
      if goOn then .next (s.escalate.answerWith .nothing)
      else .next (((s.haltSupervisor .aborted).emit .supervisorAborted).answerWith .nothing)
  | .halted => .fault .noDecisionAwaited
  | .waiting => .fault .noDecisionAwaited
  | .aborted => .fault .noDecisionAwaited
  | .completed => .fault .noDecisionAwaited

end Sys2Proof.Machine
end

