-- ==== Sys2Proof/Machine/TransactionSession.lean ====
section
/-! DEFINITION. The meaning of `TXN.SEND` (`45_session_and_timeout.md` R176 to R178). -/

namespace Sys2Proof.Machine

/-- `TXN.SEND` (`45_session_and_timeout.md` R176): the build's error, then `SessionBusy` (R177), then
`TransportNotReady` (R178); otherwise the frame is built, taken by the transport, and a new receive session and the
supervisor are started, all in one step. A finite store refuses a session it cannot hold (DESIGN CHOICE, entry 16). The
expected total may lie above `LEN_MAX` though the operands do not: the session is opened unchecked (DESIGN CHOICE,
entry 30). -/
def execTxnSend (body : SendBody) (startAddr : Nat) (bank : BankSelector) (intention : Byte) (now : Nat) (ready : Bool)
    (s : State) : Outcome :=
  match buildForSend body startAddr bank intention with
  | .error e => .next (s.raise e)
  | .ok f =>
      if s.busy then .next (s.raise .sessionBusy)
      else if !ready then .next (s.raise .transportNotReady)
      else if !s.cfg.storeHolds (expectedOfBody body) then .refused .sessionExceedsStore
      else
        .next ((((((s.setBusy true).present f).transportSend).openSession (expectedOfBody body)).startSupervisor
          now).answerWith .nothing)

end Sys2Proof.Machine
end

