-- ==== Sys2Proof/Machine/Dispatch.lean ====
section
/-! DEFINITION. One arm per constructor of `Instr`. -/

namespace Sys2Proof.Machine

def exec (i : Instr) (s : State) : Host.Outcome State Fault Refusal :=
  match i with
  | .readReq bank intention lowAddr hiAddr crc => Sys2Proof.Machine.execReadReq bank intention lowAddr hiAddr crc s
  | .writeReq length bank intention lowAddr hiAddr payload crc => Sys2Proof.Machine.execWriteReq length bank intention lowAddr hiAddr payload crc s
  | .readRsp status data crc => Sys2Proof.Machine.execReadRsp status data crc s
  | .writeAck status crc => Sys2Proof.Machine.execWriteAck status crc s
  | .crcHash bytes offset count => Sys2Proof.Machine.execCrcHash bytes offset count s
  | .buildRead startAddr length bank intention => Sys2Proof.Machine.execBuildRead startAddr length bank intention s
  | .buildWrite startAddr data bank intention => Sys2Proof.Machine.execBuildWrite startAddr data bank intention s
  | .expectedLen isWrite length => Sys2Proof.Machine.execExpectedLen isWrite length s
  | .rxReset expectedTotal => Sys2Proof.Machine.execRxReset expectedTotal s
  | .rxChunk chunk => Sys2Proof.Machine.execRxChunk chunk s
  | .chkValidate chunks checksumLength => Sys2Proof.Machine.execChkValidate chunks checksumLength s
  | .chkDiag => Sys2Proof.Machine.execChkDiag s
  | .txnSend body startAddr bank intention now ready => Sys2Proof.Machine.execTxnSend body startAddr bank intention now ready s
  | .tmoPoll now => Sys2Proof.Machine.execTmoPoll now s
  | .tmoDecide goOn => Sys2Proof.Machine.execTmoDecide goOn s

end Sys2Proof.Machine
end

