-- ==== Sys2Proof/Machine/Step.lean ====
section
/-! DEFINITION. One step: the oldest presented invocation is taken from the port and run as one atomic operation
(`20_memory.md` R50, R51). A block nobody invokes does nothing (`60_exceptions.md` R234). -/

namespace Sys2Proof.Machine

def step (s : State) : Host.Outcome State Fault Refusal :=
  match s.port with
  | [] => .next s
  | p :: rest =>
      match decode s.cfg p with
      | .error why => .refused (.undecodable why)
      | .ok i => exec i { s with port := rest }

/-- The state in which an opcode-table word is presented next (entries 2 and 29). -/
def State.withFetchWord (s : State) (nbits w : Nat) : State :=
  { s with port := presentTableWord nbits w :: s.port }

end Sys2Proof.Machine
end

