-- ==== Sys2Proof/Safety.lean ====
section
/-! DEFINITION. The terms claims use: the invariants of the state, a run of deliveries, and reference forms of the
byte orders and of the CRC, written from the rules apart from the model's own definitions of them. -/

namespace Sys2Proof

/-! ### Reference forms -/

/-- "the 3 least-significant bytes" of a number, little-endian (`20_memory.md` R43), by division. -/
def refAddrBytes (a : Nat) : List Byte :=
  [BitVec.ofNat 8 a, BitVec.ofNat 8 (a / 256), BitVec.ofNat 8 (a / 65536)]

/-- A 32-bit value's four bytes, most significant first (`20_memory.md` R44), by division. -/
def refTrailer (c : Word) : Trailer :=
  { b0 := BitVec.ofNat 8 (c.toNat / 16777216), b1 := BitVec.ofNat 8 (c.toNat / 65536),
    b2 := BitVec.ofNat 8 (c.toNat / 256), b3 := BitVec.ofNat 8 c.toNat }

/-- The four bytes of a trailer in wire order. -/
def refTrailerBytes (t : Trailer) : List Byte := [t.b0, t.b1, t.b2, t.b3]

/-- One shift of the register with no data bit (`41_crc32_engine.md` R93, second formulation). -/
def refShift (c : Word) : Word := if c.getLsbD 0 then (c >>> 1) ^^^ 0xEDB88320#32 else c >>> 1

/-- Eight shifts. -/
def refShift8 (c : Word) : Word := refShift (refShift (refShift (refShift (refShift (refShift (refShift (refShift c)))))))

/-- The second formulation of `41_crc32_engine.md` R93: the byte enters bits 7:0 first, then eight shifts. -/
def refUpdate (c : Word) (b : Byte) : Word := refShift8 (c ^^^ b.setWidth 32)

/-- The table `T` of `41_crc32_engine.md` R94. -/
def refTable (i : Byte) : Word := refShift8 (i.setWidth 32)

/-- The CRC of a byte sequence by the second formulation (`41_crc32_engine.md` R92, R93). -/
def refCrc (bytes : List Byte) : Word := bytes.foldl refUpdate 0xFFFFFFFF#32 ^^^ 0xFFFFFFFF#32

/-- Exclusive-or of two byte sequences, byte by byte. -/
def xorBytes (x y : List Byte) : List Byte := List.zipWith (· ^^^ ·) x y

/-- A byte sequence with one bit changed: bit `j` of the byte at offset `k`. -/
def flipBit (bytes : List Byte) (k j : Nat) : List Byte :=
  bytes.set k (bytes.getD k 0#8 ^^^ BitVec.ofNat 8 (2 ^ j))

/-- The three banks with their codes (`30_encoding.md` R64). -/
def refBanks : List (BankSelector × Byte) := [(.sdCard, 0x1A#8), (.eeprom, 0x1B#8), (.cpu, 0x1C#8)]

/-- A read request by the layout of `30_encoding.md` R61. -/
def refReadFrame (start count : Nat) (code intention : Byte) : List Byte :=
  let h := [0x0E#8, 0xAA#8, code, intention] ++ refAddrBytes start ++ refAddrBytes (start + count - 1)
  h ++ refTrailerBytes (refTrailer (refCrc h))

/-- A write request by the layout of `30_encoding.md` R61. -/
def refWriteFrame (start : Nat) (data : List Byte) (code intention : Byte) : List Byte :=
  let h := [BitVec.ofNat 8 (14 + data.length), 0xDD#8, code, intention] ++ refAddrBytes start ++
    refAddrBytes (start + data.length - 1) ++ data
  h ++ refTrailerBytes (refTrailer (refCrc h))

namespace Machine

/-! ### Invariants -/

/-- The receive session is consistent: `RX_TOTAL` is the length of what was received (`10_state.md` R16), and each
value of `RX_STATE` says how it stands to `RX_EXPECTED` (`43_receive_assembler.md` R142). -/
def State.rxInv (s : State) : Prop :=
  s.rx.total = s.rx.chunks.flatten.length ∧
  match s.rx.state with
  | .idle => s.rx.chunks = [] ∧ s.rx.expected = 0
  | .accumulating => s.rx.total < s.rx.expected ∨ (s.rx.chunks = [] ∧ s.rx.expected = 0)
  | .completed => s.rx.total = s.rx.expected
  | .overrun => s.rx.expected < s.rx.total

/-- The supervisor is consistent: `BUSY` is 1 exactly while it runs (`45_session_and_timeout.md` R177), the threshold
is the base times the multiplier (`10_state.md` R22), and the multiplier doubles with each attempt after the first. -/
def State.tmoInv (s : State) : Prop :=
  (s.busy = true ↔ s.tmo.state = .waiting ∨ s.tmo.state = .awaitingDecision) ∧
  s.tmo.thresholdMs = s.cfg.baseTimeoutMs * s.tmo.mult ∧
  1 ≤ s.tmo.attempt ∧ s.tmo.mult = 2 ^ (s.tmo.attempt - 1)

/-- The transmit buffer is consistent: canonical, and it holds no frame or a well-formed one
(`10_state.md` R13, `30_encoding.md` R75). -/
def State.txInv (s : State) : Prop :=
  Memory.wf s.tx.buf = true ∧
  (s.tx.len = 0 ∨ (s.frameInTx.length = s.tx.len ∧ isRequestFrame s.frameInTx = true))

/-- Every frame the transport was given is a well-formed request (`30_encoding.md` R74). -/
def State.sentInv (s : State) : Prop := ∀ f ∈ s.sent, isRequestFrame f = true

/-! ### A run of deliveries -/

/-- Chunks delivered one after the other, one `RX.CHUNK` each (`20_memory.md` R51); none where a delivery stops. -/
def deliver (chunks : List (List Byte)) (s : State) : Option State :=
  match chunks with
  | [] => some s
  | c :: rest =>
      match exec (.rxChunk c) s with
      | .next t => deliver rest t
      | .fault _ => none
      | .refused _ => none

end Machine

end Sys2Proof
end

