-- ==== Sys2Proof/Certificates/Slice0/Obligations.lean ====
section
/-! DEFINITION. What is claimed of the model: one definition per claim, nothing proved here. A clause that rests on a
choice of the model names its entry of the assumption log; one that rests on a decision of the spec's own names it
(`92_eei_decisions.md` D<n>). -/

open Sys2Proof Sys2Proof.Machine

/-! ### Presentation, decoding, encoding -/

/-- What the oldest entry of the port decodes to is run, with that entry taken from the port, and what does not decode is
refused with the decoder's reason (`20_memory.md` section 4; the port is the model's, entry 1). -/
def Obligations.StepRunsTheDecodedInstruction : Prop :=
  ∀ (s : State) (p : Presented) (rest : List Presented), s.port = p :: rest →
    (∀ i, decode s.cfg p = .ok i → step s = exec i { s with port := rest }) ∧
    (∀ why, decode s.cfg p = .error why → step s = .refused (.undecodable why))

/-- An idle block keeps all its state (`60_exceptions.md` section 5; that an idle block is one with nothing in the port is
the model's, entry 1). -/
def Obligations.IdleBlockKeepsItsState : Prop :=
  ∀ s : State, s.port = [] → step s = .next s

/-- `30_encoding.md` sections 1, 2 and 4: decoding what the encoder presents gives a well-formed instruction back, with
every operand, under every configuration. -/
def Obligations.DecodeOfEncodeIsIdentity : Prop :=
  ∀ (c : Config) (i : Instr), i.wellFormed c = true → decode c (encode i) = .ok i

/-- `30_encoding.md` sections 1 and 2: no bit of a request frame or of a response is dropped. -/
def Obligations.WireBytesSurviveDecoding : Prop :=
  ∀ (c : Config) (bytes : List Byte) (i : Instr),
    (decode c (.request bytes) = .ok i → encode i = .request bytes) ∧
    (decode c (.response bytes) = .ok i → encode i = .response bytes)

/-- Words written out from `30_encoding.md` R61, R71, R76: a frame of each kind, a response of each kind, three selects. -/
def Obligations.WrittenWordsDecode : Prop :=
  decode Config.standard (.request [0x0E#8, 0xAA#8, 0x1B#8, 0x2A#8, 0x04#8, 0x12#8, 0x7A#8, 0x10#8, 0x12#8, 0x7A#8,
      0x97#8, 0xE4#8, 0x96#8, 0x95#8]) =
    .ok (.readReq 0x1B#8 0x2A#8 0x7A1204#24 0x7A1210#24 ⟨0x97#8, 0xE4#8, 0x96#8, 0x95#8⟩) ∧
  decode Config.standard (.request [0x0F#8, 0xDD#8, 0x1B#8, 0x2A#8, 0x04#8, 0x12#8, 0x7A#8, 0x04#8, 0x12#8, 0x7A#8,
      0xAB#8, 0x19#8, 0x94#8, 0x97#8, 0x59#8]) =
    .ok (.writeReq 0x0F#8 0x1B#8 0x2A#8 0x7A1204#24 0x7A1204#24 [0xAB#8] ⟨0x19#8, 0x94#8, 0x97#8, 0x59#8⟩) ∧
  decode Config.standard (.response [0x00#8, 0x11#8, 0x22#8, 0x33#8, 0x24#8, 0xC2#8, 0x31#8, 0x6D#8]) =
    .ok (.readRsp 0x00#8 [0x11#8, 0x22#8, 0x33#8] ⟨0x24#8, 0xC2#8, 0x31#8, 0x6D#8⟩) ∧
  decode Config.standard (.response [0x00#8, 0xD2#8, 0x02#8, 0xEF#8, 0x8D#8]) =
    .ok (.writeAck 0x00#8 ⟨0xD2#8, 0x02#8, 0xEF#8, 0x8D#8⟩) ∧
  decode Config.standard (.op 0x5#4 { expectedTotal := 8 }) = .ok (.rxReset 8) ∧
  decode Config.standard (.op 0x8#4 {}) = .ok .chkDiag ∧
  decode Config.standard (.op 0xB#4 { goOn := true }) = .ok (.tmoDecide true)

/-- `30_encoding.md` R77: the selects 0x0 and 0xC to 0xF are refused, with any operands. That a step stops on what the
decoder refuses is `StepRunsTheDecodedInstruction`. -/
def Obligations.ReservedSelectsAreRefused : Prop :=
  ∀ (c : Config) (select : BitVec 4) (x : OperandLines), (select.toNat = 0 ∨ 12 ≤ select.toNat) →
    decode c (.op select x) = .error (.reservedSelect select)

/-! ### The CRC32 generator -/

/-- `41_crc32_engine.md` section 2: a hash of bytes inside the buffer completes and answers the CRC of the second
formulation, most significant byte first. What stays in `CRC_REG` is the model's reading
(entry 10); that an omitted count may stand for more than `LEN_MAX` is its choice (entry 31). -/
def Obligations.HashAnswersTheReferenceCrc : Prop :=
  ∀ (s : State) (buffer : List Byte) (offset count : Option Nat),
    let o := offset.getD 0
    let n := count.getD (buffer.length - o)
    let sub := (buffer.drop o).take n
    o + n ≤ buffer.length →
    exec (.crcHash (some buffer) offset count) s =
      .next { s with crcReg := refCrc sub ^^^ 0xFFFFFFFF#32, answer := .crc (refTrailer (refCrc sub)) }

/-- An absent buffer and a range past the buffer raise `InvalidArgument` and change nothing else (`41_crc32_engine.md`
section 2, decisions D6 and D7; a count left out beside an offset past the buffer is entry 18). -/
def Obligations.HashErrors : Prop :=
  ∀ (s : State) (offset count : Option Nat),
    exec (.crcHash none offset count) s = .next { s with answer := .error (.invalidArgument .nullBuffer) } ∧
    ∀ buffer : List Byte, buffer.length < offset.getD 0 + count.getD (buffer.length - offset.getD 0) →
      exec (.crcHash (some buffer) offset count) s = .next { s with answer := .error (.invalidArgument .range) }

/-- `41_crc32_engine.md` R91: every reference vector, also those SP fixes indirectly. -/
def Obligations.ReferenceVectorsHold : Prop :=
  ∀ s : State,
    (∀ v ∈ ([([], ⟨0x00#8, 0x00#8, 0x00#8, 0x00#8⟩),
        ([0x00#8, 0x00#8, 0x00#8], ⟨0xFF#8, 0x41#8, 0xD9#8, 0x12#8⟩),
        ([0x00#8, 0x01#8, 0x02#8], ⟨0x08#8, 0x54#8, 0x89#8, 0x7F#8⟩),
        ([0xE9#8, 0x5C#8, 0xA8#8, 0xEE#8, 0xFF#8, 0x8D#8, 0xFA#8, 0xD9#8, 0xC4#8, 0xEA#8],
          ⟨0xBF#8, 0x54#8, 0xE3#8, 0x63#8⟩),
        ([0x00#8, 0x00#8, 0x00#8, 0x00#8], ⟨0x21#8, 0x44#8, 0xDF#8, 0x1C#8⟩),
        ([0x0E#8, 0xAA#8, 0x1B#8, 0x2A#8, 0x00#8, 0x00#8, 0x00#8, 0x02#8, 0x00#8, 0x00#8],
          ⟨0xC5#8, 0x51#8, 0xCF#8, 0x76#8⟩),
        ([0x0E#8, 0xAA#8, 0x1B#8, 0x2A#8, 0x04#8, 0x12#8, 0x7A#8, 0x10#8, 0x12#8, 0x7A#8],
          ⟨0x97#8, 0xE4#8, 0x96#8, 0x95#8⟩),
        ([0x0F#8, 0xDD#8, 0x1B#8, 0x2A#8, 0x04#8, 0x12#8, 0x7A#8, 0x04#8, 0x12#8, 0x7A#8, 0xAB#8],
          ⟨0x19#8, 0x94#8, 0x97#8, 0x59#8⟩)] : List (List Byte × Trailer)),
      ∃ t, exec (.crcHash (some v.1) none none) s = .next t ∧ t.answer = .crc v.2) ∧
    ∃ t, exec (.crcHash none none none) s = .next t ∧ t.answer = .error (.invalidArgument .nullBuffer)

/-- The table form of one byte (`41_crc32_engine.md` R94, marked derived there), with the four entries it prints. -/
def Obligations.CrcUpdateIsTheTableForm : Prop :=
  (∀ (c : Word) (b : Byte), crcUpdate c b = (c >>> 8) ^^^ refTable ((c ^^^ b.setWidth 32).setWidth 8)) ∧
  refTable 0#8 = 0x00000000#32 ∧ refTable 1#8 = 0x77073096#32 ∧ refTable 128#8 = 0xEDB88320#32 ∧
  refTable 255#8 = 0x2D02EF8D#32

/-- The CRC is affine (`41_crc32_engine.md` R100 (b), marked derived there). -/
def Obligations.CrcIsAffine : Prop :=
  ∀ x y : List Byte, x.length = y.length → crc32Word x ^^^ crc32Word y = crcRun 0#32 (xorBytes x y)

/-- Any change of one bit changes the CRC (`41_crc32_engine.md` R100 (c), marked derived there). -/
def Obligations.OneBitChangesTheCrc : Prop :=
  ∀ (bytes : List Byte) (k j : Nat), k < bytes.length → j < 8 → crc32 (flipBit bytes k j) ≠ crc32 bytes

/-! ### The frame encoder -/

/-- `42_frame_codec.md` section 2, `FRAME.BUILD_READ`: for a count of at least 1 and each bank the result is the frame of
the layout of `30_encoding.md` section 1; it stands in `TXF`; the bytes past it (entry 13) and all else stay. -/
def Obligations.BuildReadMakesTheFrame : Prop :=
  ∀ (s : State) (start count : Nat) (bank : BankSelector) (code x : Byte), (bank, code) ∈ refBanks → 1 ≤ count →
    let f := refReadFrame start count code x
    ∃ m, exec (.buildRead start count bank x) s =
        .next { s with tx := { buf := m, len := 14 }, answer := .frame f } ∧
      ∀ k, Memory.read m k = if k < 14 then f[k]? else Memory.read s.tx.buf k

/-- `42_frame_codec.md` section 2, `FRAME.BUILD_WRITE`: for 1 to 236 bytes and each bank the result is the frame of the
layout of `30_encoding.md` section 1; it stands in `TXF`; the bytes past it (entry 13) and all else stay. -/
def Obligations.BuildWriteMakesTheFrame : Prop :=
  ∀ (s : State) (start : Nat) (data : List Byte) (bank : BankSelector) (code x : Byte), (bank, code) ∈ refBanks →
    1 ≤ data.length → data.length ≤ 236 →
    let f := refWriteFrame start data code x
    ∃ m, exec (.buildWrite start (some data) bank x) s =
        .next { s with tx := { buf := m, len := 14 + data.length }, answer := .frame f } ∧
      ∀ k, Memory.read m k = if k < 14 + data.length then f[k]? else Memory.read s.tx.buf k

/-- The errors of the builds, first the length, then the bank, then the size, with nothing else changed
(`42_frame_codec.md` sections 1 and 2, decisions D7 and D12). That absent data comes before an unknown bank is the model's
choice (entry 32). -/
def Obligations.BuildErrorsInOrder : Prop :=
  ∀ (s : State) (start : Nat) (bank : BankSelector) (x : Byte),
    exec (.buildRead start 0 bank x) s = .next { s with answer := .error (.invalidArgument .zeroLength) } ∧
    exec (.buildWrite start none bank x) s = .next { s with answer := .error (.invalidArgument .nullBuffer) } ∧
    exec (.buildWrite start (some []) bank x) s = .next { s with answer := .error (.invalidArgument .zeroLength) } ∧
    (∀ count k, 1 ≤ count → bank = .other k →
      exec (.buildRead start count bank x) s = .next { s with answer := .error (.unknownBank k) }) ∧
    (∀ data k, 1 ≤ data.length → bank = .other k →
      exec (.buildWrite start (some data) bank x) s = .next { s with answer := .error (.unknownBank k) }) ∧
    (∀ data, 237 ≤ data.length → (∀ k, bank ≠ .other k) →
      exec (.buildWrite start (some data) bank x) s =
        .next { s with answer := .error (.frameTooLarge (14 + data.length) 250) })

/-- `42_frame_codec.md` R122: the expected length of a response, with its select; no state is written and there is no
error. -/
def Obligations.ExpectedLengths : Prop :=
  ∀ (s : State) (length : Nat),
    exec (.expectedLen true length) s = .next { s with answer := .count 5 } ∧
    exec (.expectedLen false length) s = .next { s with answer := .count (1 + length + 4) } ∧
    ∀ w, encode (.expectedLen w length) = .op 0x4#4 { isWrite := w, length := length }

/-- What every built frame satisfies (`42_frame_codec.md` section 3, marked derived there): whatever instruction answers
a frame, its length byte is its length, it is a well-formed request, and it stands in `TXF`. -/
def Obligations.BuiltFramesAreWellFormed : Prop :=
  ∀ (i : Instr) (s t : State) (f : List Byte), exec i s = .next t → t.answer = .frame f →
    f.length = (f.getD 0 0#8).toNat ∧ 14 ≤ f.length ∧ f.length ≤ 250 ∧ isRequestFrame f = true ∧ t.frameInTx = f ∧
    (∀ a n b x, i = .buildRead a n b x → f.length = 14 ∧ f[1]? = some 0xAA#8 ∧ f[3]? = some x) ∧
    (∀ a d b x, i = .buildWrite a d b x → 15 ≤ f.length ∧ f[1]? = some 0xDD#8 ∧ f[3]? = some x)

/-- `42_frame_codec.md` R125: the frames SP gives, its two refused requests, and the two trailers a first byte 0x14 would
give. -/
def Obligations.FrameVectorsHold : Prop :=
  ∀ s : State,
    (∃ t, exec (.buildRead 0 0 .eeprom 0x2A#8) s = .next t ∧ t.answer = .error (.invalidArgument .zeroLength)) ∧
    (∃ t, exec (.buildRead 0 3 .eeprom 0x2A#8) s = .next t ∧ t.answer = .frame
      [0x0E#8, 0xAA#8, 0x1B#8, 0x2A#8, 0x00#8, 0x00#8, 0x00#8, 0x02#8, 0x00#8, 0x00#8, 0xC5#8, 0x51#8, 0xCF#8, 0x76#8]) ∧
    (∃ t, exec (.buildRead 8000004 13 .eeprom 0x2A#8) s = .next t ∧ t.answer = .frame
      [0x0E#8, 0xAA#8, 0x1B#8, 0x2A#8, 0x04#8, 0x12#8, 0x7A#8, 0x10#8, 0x12#8, 0x7A#8, 0x97#8, 0xE4#8, 0x96#8, 0x95#8]) ∧
    (∃ t, exec (.buildWrite 8000004 (some [0xAB#8]) .eeprom 0x2A#8) s = .next t ∧ t.answer = .frame
      [0x0F#8, 0xDD#8, 0x1B#8, 0x2A#8, 0x04#8, 0x12#8, 0x7A#8, 0x04#8, 0x12#8, 0x7A#8, 0xAB#8, 0x19#8, 0x94#8, 0x97#8,
        0x59#8]) ∧
    (∃ t, exec (.buildWrite 8000004 (some []) .eeprom 0x2A#8) s = .next t ∧
      t.answer = .error (.invalidArgument .zeroLength)) ∧
    (∃ t, exec (.crcHash (some [0x14#8, 0xAA#8, 0x1B#8, 0x2A#8, 0x00#8, 0x00#8, 0x00#8, 0x02#8, 0x00#8, 0x00#8]) none none) s =
      .next t ∧ t.answer = .crc ⟨0xF5#8, 0xDD#8, 0xDE#8, 0x57#8⟩) ∧
    (∃ t, exec (.crcHash (some [0x14#8, 0xAA#8, 0x1B#8, 0x2A#8, 0x04#8, 0x12#8, 0x7A#8, 0x10#8, 0x12#8, 0x7A#8]) none none) s =
      .next t ∧ t.answer = .crc ⟨0xA7#8, 0x68#8, 0x87#8, 0xB4#8⟩)

/-- Only a send to a ready transport hands it bytes, one frame at a time (`60_exceptions.md` section 4). -/
def Obligations.OnlySendHandsBytesToTheTransport : Prop :=
  ∀ (i : Instr) (s t : State), exec i s = .next t →
    t.sent = s.sent ∨
    ((∃ body a b x now, i = .txnSend body a b x now true) ∧ ∃ f, t.sent = s.sent ++ [f])

/-! ### The wire rows (the model's meanings, entries 6 and 7) -/

/-- `READ_REQ` and `WRITE_REQ` with the fields of a well-formed frame present exactly that frame (the model's meaning,
entry 6). -/
def Obligations.RequestRowsPresentTheirFrame : Prop :=
  ∀ (s : State) (i : Instr) (f : List Byte), encode i = .request f → isRequestFrame f = true →
    ∃ m, exec i s = .next { s with tx := { buf := m, len := f.length }, answer := .frame f } ∧
      ∀ k, Memory.read m k = if k < f.length then f[k]? else Memory.read s.tx.buf k

/-- `READ_REQ` and `WRITE_REQ` with other fields raise the operand's error or stop by name, and never change anything but
the answer (the model's meaning, entries 6 and 8). -/
def Obligations.RequestRowsStopOtherFrames : Prop :=
  ∀ (s : State) (i : Instr) (f : List Byte), encode i = .request f → isRequestFrame f = false →
    let bank := f.getD 2 0#8
    let payload := f.length - 14
    let known := bank = 0x1A#8 ∨ bank = 0x1B#8 ∨ bank = 0x1C#8
    (f.getD 1 0#8 = 0xDD#8 ∧ payload = 0 →
      exec i s = .next { s with answer := .error (.invalidArgument .zeroLength) }) ∧
    (¬ (f.getD 1 0#8 = 0xDD#8 ∧ payload = 0) → ¬ known →
      exec i s = .next { s with answer := .error (.unknownBank bank.toNat) }) ∧
    (known → 236 < payload → exec i s = .next { s with answer := .error (.frameTooLarge f.length 250) }) ∧
    (known → payload ≤ 236 → ¬ (f.getD 1 0#8 = 0xDD#8 ∧ payload = 0) → exec i s = .refused .frameNeverEmitted)

/-- `READ_RSP` and `WRITE_ACK` are their bytes arriving as one chunk (the model's meaning, entry 7): while a session
accumulates and the store can take them they complete as `RX.CHUNK` does, and outside a session they are dropped. -/
def Obligations.ResponseRowsArriveAsOneChunk : Prop :=
  ∀ (s : State) (i : Instr) (bytes : List Byte), encode i = .response bytes →
    (s.rx.state = .accumulating → (∀ cap, s.cfg.rxbufCap = some cap → s.rx.total + bytes.length ≤ cap) →
      ∃ t, exec i s = .next t ∧ exec (.rxChunk bytes) s = .next t ∧ t.rx.chunks = s.rx.chunks ++ [bytes]) ∧
    (s.rx.state ≠ .accumulating → exec i s = .next { s with answer := .nothing })

/-! ### The receive assembler -/

/-- `43_receive_assembler.md` section 1, `RX.RESET`: from any state (decision D17) a fresh session, with nothing else
changed. -/
def Obligations.ResetOpensAFreshSession : Prop :=
  ∀ (s : State) (expected : Nat), (∀ cap, s.cfg.rxbufCap = some cap → expected ≤ cap) →
    exec (.rxReset expected) s =
      .next { s with rx := { state := .accumulating, chunks := [], total := 0, expected := expected }, answer := .nothing }

/-- A finite chunk store refuses what it cannot hold (`93_implementation_defined.md` U12; the points of refusal are the
model's, entry 16): a session at `RX.RESET`, and at `TXN.SEND` where nothing else keeps the send from starting; a chunk
at `RX.CHUNK`, `READ_RSP` and `WRITE_ACK` while a session accumulates. -/
def Obligations.FiniteStoreRefuses : Prop :=
  ∀ (s : State) (cap : Nat), s.cfg.rxbufCap = some cap →
    (∀ expected, cap < expected → exec (.rxReset expected) s = .refused .sessionExceedsStore) ∧
    (∀ (body : SendBody) (start : Nat) (bank : BankSelector) (code x : Byte) (now expected : Nat),
      (bank, code) ∈ refBanks → s.busy = false →
      ((∃ count, body = .read count ∧ 1 ≤ count ∧ expected = 1 + count + 4) ∨
       (∃ data, body = .write (some data) ∧ 1 ≤ data.length ∧ data.length ≤ 236 ∧ expected = 5)) →
      cap < expected → exec (.txnSend body start bank x now true) s = .refused .sessionExceedsStore) ∧
    (∀ chunk : List Byte, s.rx.state = .accumulating → cap < s.rx.total + chunk.length →
      exec (.rxChunk chunk) s = .refused .chunkExceedsStore ∧
      ∀ i, encode i = .response chunk → exec i s = .refused .chunkExceedsStore)

/-- `43_receive_assembler.md` section 1: a chunk that leaves the total below the expected one is appended, counted and
forwarded, and the session goes on; nothing else changes. -/
def Obligations.ShortChunkAccumulates : Prop :=
  ∀ (s : State) (chunk : List Byte), s.rx.state = .accumulating → s.rx.total + chunk.length < s.rx.expected →
    (∀ cap, s.cfg.rxbufCap = some cap → s.rx.total + chunk.length ≤ cap) →
    exec (.rxChunk chunk) s =
      .next { s with
        rx := { state := .accumulating, chunks := s.rx.chunks ++ [chunk], total := s.rx.total + chunk.length,
                expected := s.rx.expected },
        events := s.events ++ [.progress chunk], answer := .nothing }

/-- `43_receive_assembler.md` section 1: with `RX_CRC_CHECK` disabled a chunk that reaches the expected total exactly
completes the session without validation (the event order is decision D15). -/
def Obligations.ExactChunkCompletesUnchecked : Prop :=
  ∀ (s : State) (chunk : List Byte), s.rx.state = .accumulating → s.rx.total + chunk.length = s.rx.expected →
    (∀ cap, s.cfg.rxbufCap = some cap → s.rx.expected ≤ cap) → s.cfg.rxCrcCheck = false →
    exec (.rxChunk chunk) s =
      .next { s with
        rx := { state := .completed, chunks := s.rx.chunks ++ [chunk], total := s.rx.expected, expected := s.rx.expected },
        events := s.events ++ [.progress chunk, .completed s.rx.expected], answer := .nothing }

/-- `43_receive_assembler.md` section 1: with `RX_CRC_CHECK` enabled the completing chunk also validates the session
(decisions D15 and D18): at most four bytes give a `RangeError` event and no pair, more give the pair and `ChecksumOk`
or `ChecksumMismatch`. -/
def Obligations.ExactChunkCompletesAndValidates : Prop :=
  ∀ (s : State) (chunk : List Byte), s.rx.state = .accumulating → s.rx.total + chunk.length = s.rx.expected →
    (∀ cap, s.cfg.rxbufCap = some cap → s.rx.expected ≤ cap) → s.cfg.rxCrcCheck = true →
    let all := (s.rx.chunks ++ [chunk]).flatten
    let session : ReceiveSession := { state := .completed, chunks := s.rx.chunks ++ [chunk], total := s.rx.expected,
                                      expected := s.rx.expected }
    (all.length ≤ 4 →
      exec (.rxChunk chunk) s =
        .next { s with
          rx := session, answer := .nothing,
          events := s.events ++ [.progress chunk, .completed s.rx.expected, .error (.rangeError s.rx.expected 4)] }) ∧
    (∀ payload b0 b1 b2 b3, all = payload ++ [b0, b1, b2, b3] → payload ≠ [] →
      let want := refTrailer (refCrc payload)
      let got : Trailer := ⟨b0, b1, b2, b3⟩
      exec (.rxChunk chunk) s =
        .next { s with
          rx := session, chk := { expected := want, received := got, valid := true }, answer := .nothing,
          events := s.events ++ [.progress chunk, .completed s.rx.expected,
            if want = got then .checksumOk else .error (.checksumMismatch want got)] })

/-- `43_receive_assembler.md` section 1: a chunk past the expected total is kept whole, ends the session in `Overrun` and
is reported with both counts to the Display sink; the validator does not run (the event order is decision D15). -/
def Obligations.ExcessChunkOverruns : Prop :=
  ∀ (s : State) (chunk : List Byte), s.rx.state = .accumulating → s.rx.expected < s.rx.total + chunk.length →
    (∀ cap, s.cfg.rxbufCap = some cap → s.rx.total + chunk.length ≤ cap) →
    let report := Event.error (.receiveOverrun (s.rx.total + chunk.length) s.rx.expected)
    exec (.rxChunk chunk) s =
      .next { s with
        rx := { state := .overrun, chunks := s.rx.chunks ++ [chunk], total := s.rx.total + chunk.length,
                expected := s.rx.expected },
        events := s.events ++ [.progress chunk, report], answer := .nothing } ∧
    report.destination = .displayOnError

/-- `43_receive_assembler.md` R143: after the end of a session a chunk is ignored: not appended, not counted, not
forwarded, no event, no error; and so a response whose running total lands exactly on `RX_EXPECTED` ends in `Completed`
and the bytes after it are dropped without a report. -/
def Obligations.ChunksAfterTheEndAreIgnored : Prop :=
  (∀ (s : State) (chunk : List Byte), (s.rx.state = .completed ∨ s.rx.state = .overrun) →
    exec (.rxChunk chunk) s = .next { s with answer := .nothing }) ∧
  (∀ (s t : State) (chunk excess : List Byte), s.rx.state = .accumulating →
    s.rx.total + chunk.length = s.rx.expected → exec (.rxChunk chunk) s = .next t →
    t.rx.state = .completed ∧ exec (.rxChunk excess) t = .next t)

/-- A chunk before the first session is dropped (decision D14 of the spec). -/
def Obligations.ChunksInIdleAreDropped : Prop :=
  ∀ (s : State) (chunk : List Byte), s.rx.state = .idle → exec (.rxChunk chunk) s = .next { s with answer := .nothing }

/-- The boundaries do not matter (`43_receive_assembler.md` section 2, marked derived there): the bytes of a session in any
cutting whose running total meets the expected one complete it at the last chunk, once, with the same pair and the same
closing events, and later chunks change nothing. That each chunk gives a `Progress`, also the last, and that it comes
before the closing events is decision D15 of the spec; that the completing chunk validates is decision D18. -/
def Obligations.ChunkingDoesNotMatter : Prop :=
  ∀ (s : State) (bytes : List Byte), s.cfg.rxbufCap = none →
    s.rx = { state := .accumulating, chunks := [], total := 0, expected := bytes.length } →
    ∃ (pair : DiagPair) (closing : List Event),
      (s.cfg.rxCrcCheck = false → pair = s.chk ∧ closing = [.completed bytes.length]) ∧
      ∀ chunks : List (List Byte), chunks ≠ [] → chunks.flatten = bytes →
        (∀ j, 0 < j → j < chunks.length → (chunks.take j).flatten.length < bytes.length) →
        ∃ t, deliver chunks s = some t ∧
          t.rx = { state := .completed, chunks := chunks, total := bytes.length, expected := bytes.length } ∧
          t.chk = pair ∧ t.events = s.events ++ chunks.map Event.progress ++ closing ∧
          ∀ later, deliver later t = some t

/-- Where an overrun is found depends on the cutting (`43_receive_assembler.md` section 2, marked derived there): a chunk
that straddles the expected total ends the session in `Overrun` with every byte kept and no validation. The report with
both counts and the ignored later chunks are section 1 of that file; that the straddling chunk too gives a `Progress`,
before the report, is decision D15 of the spec. -/
def Obligations.StraddlingChunkOverruns : Prop :=
  ∀ (s : State) (expected : Nat) (chunks : List (List Byte)), s.cfg.rxbufCap = none →
    s.rx = { state := .accumulating, chunks := [], total := 0, expected := expected } → chunks ≠ [] →
    (∀ j, 0 < j → j < chunks.length → (chunks.take j).flatten.length < expected) → expected < chunks.flatten.length →
    ∃ t, deliver chunks s = some t ∧
      t.rx = { state := .overrun, chunks := chunks, total := chunks.flatten.length, expected := expected } ∧
      t.chk = s.chk ∧
      t.events = s.events ++ chunks.map Event.progress ++ [.error (.receiveOverrun chunks.flatten.length expected)] ∧
      ∀ later, deliver later t = some t

/-- `Idle` is a state of reset only (`70_reset_and_hazards.md` section 1, marked derived there). -/
def Obligations.NoStepReturnsToIdle : Prop :=
  ∀ s t : State, step s = .next t → t.rx.state = .idle → s.rx.state = .idle ∧ t.rx = s.rx

/-- `Completed` and `Overrun` are left only by `RX.RESET`, alone or inside `TXN.SEND` (`43_receive_assembler.md`
section 1, its table of transitions). -/
def Obligations.EndedSessionsStayUntilReset : Prop :=
  ∀ (i : Instr) (s t : State), exec i s = .next t → s.ended = true →
    t.rx = s.rx ∨ (∃ e, i = .rxReset e) ∨ (∃ body a b x now, i = .txnSend body a b x now true)

/-! ### The checksum validator -/

/-- `44_checksum_validator.md` section 1: at least one byte before the last four is validated: the pair is written
(`CHK_VALID` is decision D20) and the answer says whether all four bytes agree; nothing else changes. -/
def Obligations.ValidateComparesAndKeepsThePair : Prop :=
  ∀ (s : State) (chunks : List (List Byte)) (payload : List Byte) (b0 b1 b2 b3 : Byte),
    chunks.flatten = payload ++ [b0, b1, b2, b3] → payload ≠ [] →
    let want := refTrailer (refCrc payload)
    let got : Trailer := ⟨b0, b1, b2, b3⟩
    exec (.chkValidate chunks 4) s =
      .next { s with chk := { expected := want, received := got, valid := true },
                     answer := .verdict (decide (want = got)) }

/-- `44_checksum_validator.md` R161: a concatenation of at most four bytes raises `RangeError` with both numbers, one of
five or more proceeds; the number of chunks does not count. -/
def Obligations.ShortInputRaisesRangeError : Prop :=
  ∀ (s : State) (chunks : List (List Byte)),
    (chunks.flatten.length ≤ 4 →
      exec (.chkValidate chunks 4) s = .next { s with answer := .error (.rangeError chunks.flatten.length 4) }) ∧
    (5 ≤ chunks.flatten.length → ∃ t ok, exec (.chkValidate chunks 4) s = .next t ∧ t.answer = .verdict ok)

/-- Any other `checksumLength` is refused (`44_checksum_validator.md` section 1, decision D19). -/
def Obligations.OtherChecksumLengthsAreRefused : Prop :=
  ∀ (s : State) (chunks : List (List Byte)) (n : Nat), n ≠ 4 →
    exec (.chkValidate chunks n) s = .refused (.checksumLengthFixed n)

/-- `CHK.DIAG` returns the pair, and no values while there is none; it writes no state (`44_checksum_validator.md`
section 1, decision D20). -/
def Obligations.DiagReturnsThePair : Prop :=
  ∀ s : State,
    (s.chk.valid = true →
      exec .chkDiag s = .next { s with answer := .diag true (some s.chk.expected) (some s.chk.received) }) ∧
    (s.chk.valid = false → exec .chkDiag s = .next { s with answer := .diag false none none })

/-- Every built frame validates, in every cutting (`44_checksum_validator.md` R168, marked derived there). -/
def Obligations.BuiltFramesValidate : Prop :=
  ∀ (i : Instr) (s t u : State) (f : List Byte) (chunks : List (List Byte)),
    exec i s = .next t → t.answer = .frame f → chunks.flatten = f →
    ∃ v, exec (.chkValidate chunks 4) u = .next v ∧ v.answer = .verdict true

/-- A message with its CRC validates in every cutting, and with any one bit changed, of the message or of the trailer,
it does not (`44_checksum_validator.md` R168, marked derived there). -/
def Obligations.OneBitErrorsAreDetected : Prop :=
  ∀ (s : State) (payload : List Byte) (chunks : List (List Byte)), payload ≠ [] →
    let message := payload ++ refTrailerBytes (refTrailer (refCrc payload))
    (chunks.flatten = message → ∃ t, exec (.chkValidate chunks 4) s = .next t ∧ t.answer = .verdict true) ∧
    (∀ k j, k < message.length → j < 8 → chunks.flatten = flipBit message k j →
      ∃ t, exec (.chkValidate chunks 4) s = .next t ∧ t.answer = .verdict false)

/-! ### The transaction session -/

/-- `45_session_and_timeout.md` section 1: a send with good operands, the guard free, the transport ready and the store
large enough hands the frame to the transport, opens a session for the expected response and starts the supervisor;
nothing else changes but `TXF` and `TX_LEN` (entry 13). The session is opened also where the expected total lies above
`LEN_MAX` (the model's choice, entry 30). -/
def Obligations.SendStartsATransaction : Prop :=
  ∀ (s : State) (body : SendBody) (start : Nat) (bank : BankSelector) (code x : Byte) (now : Nat) (f : List Byte)
    (expected : Nat),
    (bank, code) ∈ refBanks → s.busy = false → (∀ cap, s.cfg.rxbufCap = some cap → expected ≤ cap) →
    ((∃ count, body = .read count ∧ 1 ≤ count ∧ f = refReadFrame start count code x ∧ expected = 1 + count + 4) ∨
     (∃ data, body = .write (some data) ∧ 1 ≤ data.length ∧ data.length ≤ 236 ∧ f = refWriteFrame start data code x ∧
       expected = 5)) →
    ∃ m, exec (.txnSend body start bank x now true) s =
        .next { s with
          busy := true, sent := s.sent ++ [f], tx := { buf := m, len := 0 },
          rx := { state := .accumulating, chunks := [], total := 0, expected := expected },
          tmo := { state := .waiting, thresholdMs := s.cfg.baseTimeoutMs, mult := 1, attempt := 1, start := now },
          answer := .nothing } ∧
      ∀ k, Memory.read m k = if k < f.length then f[k]? else Memory.read s.tx.buf k

/-- The errors of a send: the build's first, then `SessionBusy`, then `TransportNotReady`, with nothing sent and nothing
written (`45_session_and_timeout.md` section 1, decisions D21 and D22). -/
def Obligations.SendErrorsInOrder : Prop :=
  ∀ (s t : State) (body : SendBody) (start : Nat) (bank : BankSelector) (x : Byte) (now : Nat) (ready : Bool),
    (match body with
      | .read count => exec (.buildRead start count bank x) s = .next t
      | .write data => exec (.buildWrite start data bank x) s = .next t) →
    (∀ e, t.answer = .error e →
      exec (.txnSend body start bank x now ready) s = .next { s with answer := .error e }) ∧
    (∀ f, t.answer = .frame f → s.busy = true →
      exec (.txnSend body start bank x now ready) s = .next { s with answer := .error .sessionBusy }) ∧
    (∀ f, t.answer = .frame f → s.busy = false → ready = false →
      exec (.txnSend body start bank x now ready) s = .next { s with answer := .error .transportNotReady })

/-- No send passes the guard while an earlier send's supervisor runs (`45_session_and_timeout.md` section 1,
`20_memory.md` section 4). A send that raised nothing leaves the supervisor running; in every consistent state in which it
runs, every send ends in an error and changes nothing else; and of all instructions only a poll and a "stop" that halt the
supervisor free the guard. -/
def Obligations.SecondSendCannotPassTheGuard : Prop :=
  (∀ (s t : State) (body : SendBody) (a : Nat) (b : BankSelector) (x : Byte) (now : Nat) (ready : Bool),
    exec (.txnSend body a b x now ready) s = .next t → t.answer = .nothing →
    s.busy = false ∧ t.busy = true ∧ t.tmo.state = .waiting) ∧
  (∀ (s : State) (body : SendBody) (a : Nat) (b : BankSelector) (x : Byte) (now : Nat) (ready : Bool),
    s.tmoInv → (s.tmo.state = .waiting ∨ s.tmo.state = .awaitingDecision) →
    ∃ e, exec (.txnSend body a b x now ready) s = .next { s with answer := .error e }) ∧
  (∀ (i : Instr) (s t : State), exec i s = .next t → s.busy = true →
    t.busy = true ∨
    ((∃ now, i = .tmoPoll now) ∧ (t.tmo.state = .completed ∨ t.tmo.state = .halted)) ∨
    (i = .tmoDecide false ∧ t.tmo.state = .aborted))

/-! ### The timeout supervisor -/

/-- `45_session_and_timeout.md` section 2, one turn of the loop while `Waiting`, complete: completion, then overrun
(decision D24), then the threshold (decision D23). The elapsed time is `now - TMO_START`; where `now` lies before
`TMO_START` it is a free value (entry 14) and the turn runs all the same. -/
def Obligations.PollTurnsWhileWaiting : Prop :=
  ∀ (s : State) (now : Nat), s.tmo.state = .waiting →
    ∃ elapsed, (s.tmo.start ≤ now → elapsed = now - s.tmo.start) ∧
      (s.rx.state = .completed →
        exec (.tmoPoll now) s =
          .next { s with tmo := { s.tmo with state := .completed }, busy := false,
                         events := s.events ++ [.supervisorCompleted elapsed], answer := .nothing }) ∧
      (s.rx.state = .overrun →
        exec (.tmoPoll now) s =
          .next { s with tmo := { s.tmo with state := .halted }, busy := false, answer := .nothing }) ∧
      (s.rx.state = .idle ∨ s.rx.state = .accumulating → s.tmo.thresholdMs ≤ elapsed →
        exec (.tmoPoll now) s =
          .next { s with tmo := { s.tmo with state := .awaitingDecision },
                         events := s.events ++ [.decisionRequest s.tmo.thresholdMs s.tmo.attempt], answer := .nothing }) ∧
      (s.rx.state = .idle ∨ s.rx.state = .accumulating → elapsed < s.tmo.thresholdMs →
        exec (.tmoPoll now) s = .next { s with answer := .nothing })

/-- A poll outside `Waiting` has no effect, also while a decision is awaited (`45_session_and_timeout.md` section 2). -/
def Obligations.PollOutsideWaitingHasNoEffect : Prop :=
  ∀ (s : State) (now : Nat), s.tmo.state ≠ .waiting → exec (.tmoPoll now) s = .next { s with answer := .nothing }

/-- A "continue" doubles the multiplier, sets the threshold to the base times it, counts the attempt, and waits on from
the same start (`45_session_and_timeout.md` section 2); where the threshold was the base times the multiplier, it
doubles. -/
def Obligations.ContinueDoublesTheThreshold : Prop :=
  ∀ s : State, s.tmo.state = .awaitingDecision →
    exec (.tmoDecide true) s =
      .next { s with
        tmo := { state := .waiting, thresholdMs := s.cfg.baseTimeoutMs * (s.tmo.mult * 2), mult := s.tmo.mult * 2,
                 attempt := s.tmo.attempt + 1, start := s.tmo.start },
        answer := .nothing } ∧
    (s.tmo.thresholdMs = s.cfg.baseTimeoutMs * s.tmo.mult →
      s.cfg.baseTimeoutMs * (s.tmo.mult * 2) = s.tmo.thresholdMs * 2)

/-- A "stop" aborts, frees the guard, reports it as `TimeoutAborted`, and leaves the receive session as it was, whatever
its state (`45_session_and_timeout.md` section 2, decision D25). -/
def Obligations.StopAborts : Prop :=
  ∀ s : State, s.tmo.state = .awaitingDecision →
    exec (.tmoDecide false) s =
      .next { s with tmo := { s.tmo with state := .aborted }, busy := false,
                     events := s.events ++ [.supervisorAborted], answer := .nothing } ∧
    Event.reports .supervisorAborted = some .timeoutAborted

/-- A decision nobody asked for has no step (`93_implementation_defined.md` U6). -/
def Obligations.DecideHasNoStepElsewhere : Prop :=
  ∀ (s : State) (goOn : Bool), s.tmo.state ≠ .awaitingDecision → exec (.tmoDecide goOn) s = .fault .noDecisionAwaited

/-- The requests carry the doubling threshold (`45_session_and_timeout.md` section 2, its testable property; the first
attempt number and the argument are decision D23): in a consistent state attempt `k` asks with the base times
`2 ^ (k - 1)`, and the next request after a "continue" carries twice as much and the next attempt. -/
def Obligations.DecisionRequestsDouble : Prop :=
  ∀ (s t u v : State) (now later ms k ms' k' : Nat), s.tmoInv →
    exec (.tmoPoll now) s = .next t → t.events = s.events ++ [.decisionRequest ms k] →
    ms = s.cfg.baseTimeoutMs * 2 ^ (k - 1) ∧
    (exec (.tmoDecide true) t = .next u → exec (.tmoPoll later) u = .next v →
      v.events = u.events ++ [.decisionRequest ms' k'] → ms' = 2 * ms ∧ k' = k + 1)

/-- Success and failure together (`70_reset_and_hazards.md` section 3): a completed response with a bad trailer gives a
`ChecksumMismatch` and then, at the next poll, `SupervisorCompleted`. That the completing chunk gives `Progress`, then
`Completed`, then the mismatch rests on decisions D15 and D18 of the spec. -/
def Obligations.SuccessAndFailureTogether : Prop :=
  ∀ (s t : State) (chunk payload : List Byte) (got : Trailer) (now : Nat), s.cfg.rxCrcCheck = true →
    s.rx.state = .accumulating → s.tmo.state = .waiting → s.tmo.start ≤ now →
    s.rx.total + chunk.length = s.rx.expected →
    (s.rx.chunks ++ [chunk]).flatten = payload ++ refTrailerBytes got → payload ≠ [] →
    got ≠ refTrailer (refCrc payload) → exec (.rxChunk chunk) s = .next t →
    ∃ u, exec (.tmoPoll now) t = .next u ∧ u.busy = false ∧ u.rx.state = .completed ∧
      u.events = s.events ++ [.progress chunk, .completed s.rx.expected,
        .error (.checksumMismatch (refTrailer (refCrc payload)) got), .supervisorCompleted (now - s.tmo.start)]

/-! ### The whole machine -/

/-- An operation that ends with an error has changed nothing else, whichever it is (`60_exceptions.md` R210): no state
element written, no event emitted, no byte sent. -/
def Obligations.ErrorsArePrecise : Prop :=
  ∀ (i : Instr) (s t : State) (e : Error), exec i s = .next t → t.answer = .error e →
    t = { s with answer := .error e }

/-- `10_state.md` section 6: no step writes the configuration (the field is the model's way to carry it, entry 3). -/
def Obligations.ConfigurationIsNeverWritten : Prop :=
  ∀ s t : State, step s = .next t → t.cfg = s.cfg

/-- Events and sent frames are only ever added at the end (`00_scope.md` section 4 on `emit`; the streams are the model's
fields, entry 9). -/
def Obligations.OutputsOnlyGrow : Prop :=
  ∀ s t : State, step s = .next t → (∃ l, t.events = s.events ++ l) ∧ (∃ l, t.sent = s.sent ++ l)

/-- The pure operations are idempotent (`20_memory.md` section 3): repeated with the same operands they give the same
result and the same state. `CHK.DIAG`, which that section does not list, is one of them because it writes no state
(`44_checksum_validator.md` section 1, decision D20; listed as pure in `60_exceptions.md` section 5). -/
def Obligations.PureOperationsAreIdempotent : Prop :=
  ∀ (i : Instr) (s t : State),
    ((∃ bytes o n, i = .crcHash bytes o n) ∨ (∃ a n b x, i = .buildRead a n b x) ∨ (∃ a d b x, i = .buildWrite a d b x) ∨
      (∃ w n, i = .expectedLen w n) ∨ (∃ chunks n, i = .chkValidate chunks n) ∨ i = .chkDiag) →
    exec i s = .next t → exec i t = .next t

/-- Every step keeps the receive session consistent: `RX_TOTAL` is the number of bytes received, and `RX_STATE` says how
it stands to `RX_EXPECTED` (`10_state.md` section 4, `43_receive_assembler.md` section 1). -/
def Obligations.StepKeepsTheReceiveAccount : Prop :=
  ∀ s t : State, s.rxInv → step s = .next t → t.rxInv

/-- Every step keeps `BUSY` equal to "the supervisor runs" and the threshold equal to the base times a doubled multiplier
(`10_state.md` section 7, `45_session_and_timeout.md` section 1). -/
def Obligations.StepKeepsTheSupervisorConsistent : Prop :=
  ∀ s t : State, s.tmoInv → step s = .next t → t.tmoInv

/-- Every step keeps `TXF` canonical and any frame in it a well-formed request (`10_state.md` section 3,
`30_encoding.md` section 1; the form of the buffer is entry 12). -/
def Obligations.StepKeepsTheTransmitBuffer : Prop :=
  ∀ s t : State, s.txInv → step s = .next t → t.txInv

/-- Every step keeps it so that all the transport ever gets are well-formed requests (`30_encoding.md` section 3: what
the block can never emit). -/
def Obligations.OnlyWellFormedRequestsAreSent : Prop :=
  ∀ s t : State, s.sentInv → step s = .next t → t.sentInv

/-- The state after reset meets every invariant, under every configuration. -/
def Obligations.ResetMeetsTheInvariants : Prop :=
  ∀ c : Config, (State.resetWith c).rxInv ∧ (State.resetWith c).tmoInv ∧ (State.resetWith c).txInv ∧
    (State.resetWith c).sentInv

/-- The values reset leaves (`10_state.md` section 11, decision D26), with the parameters at their defaults and nothing
said of what the spec leaves unspecified. -/
def Obligations.ResetLeavesTheStatedValues : Prop :=
  State.reset.rx = { state := .idle, chunks := [], total := 0, expected := 0 } ∧ State.reset.ended = false ∧
  State.reset.tx.len = 0 ∧ State.reset.chk.valid = false ∧ State.reset.busy = false ∧
  State.reset.tmo.state = .halted ∧ State.reset.tmo.thresholdMs = 2000 ∧ State.reset.tmo.mult = 1 ∧
  State.reset.tmo.attempt = 1 ∧ State.reset.cfg.rxCrcCheck = true
end

