-- ==== Sys2Proof/Laws/State.lean ====
section
/-! SUPPORT. What each update of State writes and what it leaves: one lemma per field per update, so that no later proof
unfolds a record update. -/

namespace Sys2Proof.Machine.State

variable (s : State)

@[simp] theorem answerWith_cfg (a : Answer) : (s.answerWith a).cfg = s.cfg := rfl
@[simp] theorem answerWith_port (a : Answer) : (s.answerWith a).port = s.port := rfl
@[simp] theorem answerWith_crcReg (a : Answer) : (s.answerWith a).crcReg = s.crcReg := rfl
@[simp] theorem answerWith_tx (a : Answer) : (s.answerWith a).tx = s.tx := rfl
@[simp] theorem answerWith_rx (a : Answer) : (s.answerWith a).rx = s.rx := rfl
@[simp] theorem answerWith_chk (a : Answer) : (s.answerWith a).chk = s.chk := rfl
@[simp] theorem answerWith_busy (a : Answer) : (s.answerWith a).busy = s.busy := rfl
@[simp] theorem answerWith_tmo (a : Answer) : (s.answerWith a).tmo = s.tmo := rfl
@[simp] theorem answerWith_answer (a : Answer) : (s.answerWith a).answer = a := rfl
@[simp] theorem answerWith_events (a : Answer) : (s.answerWith a).events = s.events := rfl
@[simp] theorem answerWith_sent (a : Answer) : (s.answerWith a).sent = s.sent := rfl

@[simp] theorem raise_cfg (e : Error) : (s.raise e).cfg = s.cfg := rfl
@[simp] theorem raise_port (e : Error) : (s.raise e).port = s.port := rfl
@[simp] theorem raise_crcReg (e : Error) : (s.raise e).crcReg = s.crcReg := rfl
@[simp] theorem raise_tx (e : Error) : (s.raise e).tx = s.tx := rfl
@[simp] theorem raise_rx (e : Error) : (s.raise e).rx = s.rx := rfl
@[simp] theorem raise_chk (e : Error) : (s.raise e).chk = s.chk := rfl
@[simp] theorem raise_busy (e : Error) : (s.raise e).busy = s.busy := rfl
@[simp] theorem raise_tmo (e : Error) : (s.raise e).tmo = s.tmo := rfl
@[simp] theorem raise_answer (e : Error) : (s.raise e).answer = .error e := rfl
@[simp] theorem raise_events (e : Error) : (s.raise e).events = s.events := rfl
@[simp] theorem raise_sent (e : Error) : (s.raise e).sent = s.sent := rfl

@[simp] theorem emit_cfg (v : Event) : (s.emit v).cfg = s.cfg := rfl
@[simp] theorem emit_port (v : Event) : (s.emit v).port = s.port := rfl
@[simp] theorem emit_crcReg (v : Event) : (s.emit v).crcReg = s.crcReg := rfl
@[simp] theorem emit_tx (v : Event) : (s.emit v).tx = s.tx := rfl
@[simp] theorem emit_rx (v : Event) : (s.emit v).rx = s.rx := rfl
@[simp] theorem emit_chk (v : Event) : (s.emit v).chk = s.chk := rfl
@[simp] theorem emit_busy (v : Event) : (s.emit v).busy = s.busy := rfl
@[simp] theorem emit_tmo (v : Event) : (s.emit v).tmo = s.tmo := rfl
@[simp] theorem emit_answer (v : Event) : (s.emit v).answer = s.answer := rfl
@[simp] theorem emit_events (v : Event) : (s.emit v).events = s.events ++ [v] := rfl
@[simp] theorem emit_sent (v : Event) : (s.emit v).sent = s.sent := rfl

@[simp] theorem present_cfg (f : List Byte) : (s.present f).cfg = s.cfg := rfl
@[simp] theorem present_port (f : List Byte) : (s.present f).port = s.port := rfl
@[simp] theorem present_crcReg (f : List Byte) : (s.present f).crcReg = s.crcReg := rfl
@[simp] theorem present_tx (f : List Byte) : (s.present f).tx = { buf := Memory.writeBytes s.tx.buf 0 f, len := f.length } := rfl
@[simp] theorem present_rx (f : List Byte) : (s.present f).rx = s.rx := rfl
@[simp] theorem present_chk (f : List Byte) : (s.present f).chk = s.chk := rfl
@[simp] theorem present_busy (f : List Byte) : (s.present f).busy = s.busy := rfl
@[simp] theorem present_tmo (f : List Byte) : (s.present f).tmo = s.tmo := rfl
@[simp] theorem present_answer (f : List Byte) : (s.present f).answer = s.answer := rfl
@[simp] theorem present_events (f : List Byte) : (s.present f).events = s.events := rfl
@[simp] theorem present_sent (f : List Byte) : (s.present f).sent = s.sent := rfl

@[simp] theorem transportSend_cfg : (s.transportSend).cfg = s.cfg := rfl
@[simp] theorem transportSend_port : (s.transportSend).port = s.port := rfl
@[simp] theorem transportSend_crcReg : (s.transportSend).crcReg = s.crcReg := rfl
@[simp] theorem transportSend_tx : (s.transportSend).tx = { s.tx with len := 0 } := rfl
@[simp] theorem transportSend_rx : (s.transportSend).rx = s.rx := rfl
@[simp] theorem transportSend_chk : (s.transportSend).chk = s.chk := rfl
@[simp] theorem transportSend_busy : (s.transportSend).busy = s.busy := rfl
@[simp] theorem transportSend_tmo : (s.transportSend).tmo = s.tmo := rfl
@[simp] theorem transportSend_answer : (s.transportSend).answer = s.answer := rfl
@[simp] theorem transportSend_events : (s.transportSend).events = s.events := rfl
@[simp] theorem transportSend_sent : (s.transportSend).sent = s.sent ++ [s.frameInTx] := rfl

@[simp] theorem latchPair_cfg (p : DiagPair) : (s.latchPair p).cfg = s.cfg := rfl
@[simp] theorem latchPair_port (p : DiagPair) : (s.latchPair p).port = s.port := rfl
@[simp] theorem latchPair_crcReg (p : DiagPair) : (s.latchPair p).crcReg = s.crcReg := rfl
@[simp] theorem latchPair_tx (p : DiagPair) : (s.latchPair p).tx = s.tx := rfl
@[simp] theorem latchPair_rx (p : DiagPair) : (s.latchPair p).rx = s.rx := rfl
@[simp] theorem latchPair_chk (p : DiagPair) : (s.latchPair p).chk = p := rfl
@[simp] theorem latchPair_busy (p : DiagPair) : (s.latchPair p).busy = s.busy := rfl
@[simp] theorem latchPair_tmo (p : DiagPair) : (s.latchPair p).tmo = s.tmo := rfl
@[simp] theorem latchPair_answer (p : DiagPair) : (s.latchPair p).answer = s.answer := rfl
@[simp] theorem latchPair_events (p : DiagPair) : (s.latchPair p).events = s.events := rfl
@[simp] theorem latchPair_sent (p : DiagPair) : (s.latchPair p).sent = s.sent := rfl

@[simp] theorem openSession_cfg (n : Nat) : (s.openSession n).cfg = s.cfg := rfl
@[simp] theorem openSession_port (n : Nat) : (s.openSession n).port = s.port := rfl
@[simp] theorem openSession_crcReg (n : Nat) : (s.openSession n).crcReg = s.crcReg := rfl
@[simp] theorem openSession_tx (n : Nat) : (s.openSession n).tx = s.tx := rfl
@[simp] theorem openSession_rx (n : Nat) : (s.openSession n).rx = { state := .accumulating, chunks := [], total := 0, expected := n } := rfl
@[simp] theorem openSession_chk (n : Nat) : (s.openSession n).chk = s.chk := rfl
@[simp] theorem openSession_busy (n : Nat) : (s.openSession n).busy = s.busy := rfl
@[simp] theorem openSession_tmo (n : Nat) : (s.openSession n).tmo = s.tmo := rfl
@[simp] theorem openSession_answer (n : Nat) : (s.openSession n).answer = s.answer := rfl
@[simp] theorem openSession_events (n : Nat) : (s.openSession n).events = s.events := rfl
@[simp] theorem openSession_sent (n : Nat) : (s.openSession n).sent = s.sent := rfl

@[simp] theorem setRxState_cfg (r : RxState) : (s.setRxState r).cfg = s.cfg := rfl
@[simp] theorem setRxState_port (r : RxState) : (s.setRxState r).port = s.port := rfl
@[simp] theorem setRxState_crcReg (r : RxState) : (s.setRxState r).crcReg = s.crcReg := rfl
@[simp] theorem setRxState_tx (r : RxState) : (s.setRxState r).tx = s.tx := rfl
@[simp] theorem setRxState_rx (r : RxState) : (s.setRxState r).rx = { s.rx with state := r } := rfl
@[simp] theorem setRxState_chk (r : RxState) : (s.setRxState r).chk = s.chk := rfl
@[simp] theorem setRxState_busy (r : RxState) : (s.setRxState r).busy = s.busy := rfl
@[simp] theorem setRxState_tmo (r : RxState) : (s.setRxState r).tmo = s.tmo := rfl
@[simp] theorem setRxState_answer (r : RxState) : (s.setRxState r).answer = s.answer := rfl
@[simp] theorem setRxState_events (r : RxState) : (s.setRxState r).events = s.events := rfl
@[simp] theorem setRxState_sent (r : RxState) : (s.setRxState r).sent = s.sent := rfl

@[simp] theorem appendChunk_cfg (c : List Byte) : (s.appendChunk c).cfg = s.cfg := rfl
@[simp] theorem appendChunk_port (c : List Byte) : (s.appendChunk c).port = s.port := rfl
@[simp] theorem appendChunk_crcReg (c : List Byte) : (s.appendChunk c).crcReg = s.crcReg := rfl
@[simp] theorem appendChunk_tx (c : List Byte) : (s.appendChunk c).tx = s.tx := rfl
@[simp] theorem appendChunk_rx (c : List Byte) : (s.appendChunk c).rx = { s.rx with chunks := s.rx.chunks ++ [c], total := s.rx.total + c.length } := rfl
@[simp] theorem appendChunk_chk (c : List Byte) : (s.appendChunk c).chk = s.chk := rfl
@[simp] theorem appendChunk_busy (c : List Byte) : (s.appendChunk c).busy = s.busy := rfl
@[simp] theorem appendChunk_tmo (c : List Byte) : (s.appendChunk c).tmo = s.tmo := rfl
@[simp] theorem appendChunk_answer (c : List Byte) : (s.appendChunk c).answer = s.answer := rfl
@[simp] theorem appendChunk_events (c : List Byte) : (s.appendChunk c).events = s.events := rfl
@[simp] theorem appendChunk_sent (c : List Byte) : (s.appendChunk c).sent = s.sent := rfl

@[simp] theorem setBusy_cfg (b : Bool) : (s.setBusy b).cfg = s.cfg := rfl
@[simp] theorem setBusy_port (b : Bool) : (s.setBusy b).port = s.port := rfl
@[simp] theorem setBusy_crcReg (b : Bool) : (s.setBusy b).crcReg = s.crcReg := rfl
@[simp] theorem setBusy_tx (b : Bool) : (s.setBusy b).tx = s.tx := rfl
@[simp] theorem setBusy_rx (b : Bool) : (s.setBusy b).rx = s.rx := rfl
@[simp] theorem setBusy_chk (b : Bool) : (s.setBusy b).chk = s.chk := rfl
@[simp] theorem setBusy_busy (b : Bool) : (s.setBusy b).busy = b := rfl
@[simp] theorem setBusy_tmo (b : Bool) : (s.setBusy b).tmo = s.tmo := rfl
@[simp] theorem setBusy_answer (b : Bool) : (s.setBusy b).answer = s.answer := rfl
@[simp] theorem setBusy_events (b : Bool) : (s.setBusy b).events = s.events := rfl
@[simp] theorem setBusy_sent (b : Bool) : (s.setBusy b).sent = s.sent := rfl

@[simp] theorem setTmoState_cfg (t : TmoState) : (s.setTmoState t).cfg = s.cfg := rfl
@[simp] theorem setTmoState_port (t : TmoState) : (s.setTmoState t).port = s.port := rfl
@[simp] theorem setTmoState_crcReg (t : TmoState) : (s.setTmoState t).crcReg = s.crcReg := rfl
@[simp] theorem setTmoState_tx (t : TmoState) : (s.setTmoState t).tx = s.tx := rfl
@[simp] theorem setTmoState_rx (t : TmoState) : (s.setTmoState t).rx = s.rx := rfl
@[simp] theorem setTmoState_chk (t : TmoState) : (s.setTmoState t).chk = s.chk := rfl
@[simp] theorem setTmoState_busy (t : TmoState) : (s.setTmoState t).busy = s.busy := rfl
@[simp] theorem setTmoState_tmo (t : TmoState) : (s.setTmoState t).tmo = { s.tmo with state := t } := rfl
@[simp] theorem setTmoState_answer (t : TmoState) : (s.setTmoState t).answer = s.answer := rfl
@[simp] theorem setTmoState_events (t : TmoState) : (s.setTmoState t).events = s.events := rfl
@[simp] theorem setTmoState_sent (t : TmoState) : (s.setTmoState t).sent = s.sent := rfl

@[simp] theorem startSupervisor_cfg (now : Nat) : (s.startSupervisor now).cfg = s.cfg := rfl
@[simp] theorem startSupervisor_port (now : Nat) : (s.startSupervisor now).port = s.port := rfl
@[simp] theorem startSupervisor_crcReg (now : Nat) : (s.startSupervisor now).crcReg = s.crcReg := rfl
@[simp] theorem startSupervisor_tx (now : Nat) : (s.startSupervisor now).tx = s.tx := rfl
@[simp] theorem startSupervisor_rx (now : Nat) : (s.startSupervisor now).rx = s.rx := rfl
@[simp] theorem startSupervisor_chk (now : Nat) : (s.startSupervisor now).chk = s.chk := rfl
@[simp] theorem startSupervisor_busy (now : Nat) : (s.startSupervisor now).busy = s.busy := rfl
@[simp] theorem startSupervisor_tmo (now : Nat) : (s.startSupervisor now).tmo = { state := .waiting, thresholdMs := s.cfg.baseTimeoutMs, mult := 1, attempt := 1, start := now } := rfl
@[simp] theorem startSupervisor_answer (now : Nat) : (s.startSupervisor now).answer = s.answer := rfl
@[simp] theorem startSupervisor_events (now : Nat) : (s.startSupervisor now).events = s.events := rfl
@[simp] theorem startSupervisor_sent (now : Nat) : (s.startSupervisor now).sent = s.sent := rfl

@[simp] theorem haltSupervisor_cfg (t : TmoState) : (s.haltSupervisor t).cfg = s.cfg := rfl
@[simp] theorem haltSupervisor_port (t : TmoState) : (s.haltSupervisor t).port = s.port := rfl
@[simp] theorem haltSupervisor_crcReg (t : TmoState) : (s.haltSupervisor t).crcReg = s.crcReg := rfl
@[simp] theorem haltSupervisor_tx (t : TmoState) : (s.haltSupervisor t).tx = s.tx := rfl
@[simp] theorem haltSupervisor_rx (t : TmoState) : (s.haltSupervisor t).rx = s.rx := rfl
@[simp] theorem haltSupervisor_chk (t : TmoState) : (s.haltSupervisor t).chk = s.chk := rfl
@[simp] theorem haltSupervisor_busy (t : TmoState) : (s.haltSupervisor t).busy = false := rfl
@[simp] theorem haltSupervisor_tmo (t : TmoState) : (s.haltSupervisor t).tmo = { s.tmo with state := t } := rfl
@[simp] theorem haltSupervisor_answer (t : TmoState) : (s.haltSupervisor t).answer = s.answer := rfl
@[simp] theorem haltSupervisor_events (t : TmoState) : (s.haltSupervisor t).events = s.events := rfl
@[simp] theorem haltSupervisor_sent (t : TmoState) : (s.haltSupervisor t).sent = s.sent := rfl

@[simp] theorem escalate_cfg : (s.escalate).cfg = s.cfg := rfl
@[simp] theorem escalate_port : (s.escalate).port = s.port := rfl
@[simp] theorem escalate_crcReg : (s.escalate).crcReg = s.crcReg := rfl
@[simp] theorem escalate_tx : (s.escalate).tx = s.tx := rfl
@[simp] theorem escalate_rx : (s.escalate).rx = s.rx := rfl
@[simp] theorem escalate_chk : (s.escalate).chk = s.chk := rfl
@[simp] theorem escalate_busy : (s.escalate).busy = s.busy := rfl
@[simp] theorem escalate_tmo : (s.escalate).tmo = { s.tmo with
      state := .waiting, mult := s.tmo.mult * 2, thresholdMs := s.cfg.baseTimeoutMs * (s.tmo.mult * 2),
      attempt := s.tmo.attempt + 1 } := rfl
@[simp] theorem escalate_answer : (s.escalate).answer = s.answer := rfl
@[simp] theorem escalate_events : (s.escalate).events = s.events := rfl
@[simp] theorem escalate_sent : (s.escalate).sent = s.sent := rfl

end Sys2Proof.Machine.State
end

