-- ==== Sys2Proof/Laws/Memory.lean ====
section
/-! SUPPORT. The laws of the transmit buffer: read after write, canonical form, and a presented frame reads back. -/

namespace Sys2Proof.Machine

@[simp] theorem Memory.read_write_same (m : Memory) (a : Nat) (v : Byte) :
    Memory.read (Memory.write m a v) a = some v := by
  fun_induction Memory.write m a v <;> simp_all [Memory.read]

theorem Memory.read_write_other (m : Memory) (a : Nat) (v : Byte) {k : Nat} (h : k ≠ a) :
    Memory.read (Memory.write m a v) k = Memory.read m k := by
  fun_induction Memory.write m a v <;> simp_all [Memory.read]

theorem Memory.read_write (m : Memory) (a : Nat) (v : Byte) (k : Nat) :
    Memory.read (Memory.write m a v) k = if k = a then some v else Memory.read m k := by
  by_cases h : k = a
  · subst h; simp
  · simp [h, Memory.read_write_other m a v h]

/-- What a cell's successor must look like for the list to be rising after it. -/
theorem Memory.wf_cons (a : Nat) (v : Byte) (m : Memory) :
    Memory.wf ((a, v) :: m) = true ↔ a < maxFrame ∧ (∀ b w r, m = (b, w) :: r → a < b) ∧ Memory.wf m = true := by
  cases m with
  | nil => simp [Memory.wf]
  | cons c r => obtain ⟨b, w⟩ := c; simp [Memory.wf, and_assoc]

/-- A store inside the buffer keeps the canonical form. -/
theorem Memory.write_wf (m : Memory) (a : Nat) (v : Byte) (ha : a < maxFrame) (h : Memory.wf m = true) :
    Memory.wf (Memory.write m a v) = true := by
  induction m with
  | nil => simp [Memory.write, Memory.wf, ha]
  | cons c rest ih =>
    obtain ⟨b, w⟩ := c
    rw [Memory.wf_cons] at h
    obtain ⟨hb, hnext, hrest⟩ := h
    unfold Memory.write
    split
    · next hlt =>
      rw [Memory.wf_cons]
      refine ⟨ha, ?_, (Memory.wf_cons b w rest).2 ⟨hb, hnext, hrest⟩⟩
      intro b' w' r' heq
      simp only [List.cons.injEq, Prod.mk.injEq] at heq
      omega
    · split
      · next heq =>
        subst heq
        exact (Memory.wf_cons a v rest).2 ⟨ha, hnext, hrest⟩
      · next h1 h2 =>
        rw [Memory.wf_cons]
        refine ⟨hb, ?_, ih hrest⟩
        intro b' w' r' heq
        cases rest with
        | nil => simp [Memory.write] at heq; omega
        | cons c' rest' =>
          obtain ⟨d, x⟩ := c'
          have hd := hnext d x rest' rfl
          unfold Memory.write at heq
          split at heq
          · simp only [List.cons.injEq, Prod.mk.injEq] at heq; omega
          · split at heq
            · simp only [List.cons.injEq, Prod.mk.injEq] at heq; omega
            · simp only [List.cons.injEq, Prod.mk.injEq] at heq; omega

/-- Storing bytes that stay inside the buffer keeps the canonical form. -/
theorem Memory.writeBytes_wf (bytes : List Byte) (m : Memory) (a : Nat) (ha : a + bytes.length ≤ maxFrame)
    (h : Memory.wf m = true) : Memory.wf (Memory.writeBytes m a bytes) = true := by
  induction bytes generalizing m a with
  | nil => simpa [Memory.writeBytes] using h
  | cons v rest ih =>
    simp only [List.length_cons] at ha
    exact ih _ _ (by omega) (Memory.write_wf m a v (by omega) h)

/-- Reading one byte after storing several: inside the range the stored byte, outside it what was there. -/
theorem Memory.read_writeBytes (bytes : List Byte) (m : Memory) (a k : Nat) :
    Memory.read (Memory.writeBytes m a bytes) k =
      if a ≤ k ∧ k < a + bytes.length then bytes[k - a]? else Memory.read m k := by
  induction bytes generalizing m a with
  | nil => simp [Memory.writeBytes]
  | cons v rest ih =>
    simp only [Memory.writeBytes, ih, Memory.read_write, List.length_cons]
    by_cases hk : k = a
    · subst hk; simp
    · by_cases h1 : a ≤ k ∧ k < a + (rest.length + 1)
      · obtain ⟨j, rfl⟩ : ∃ j, k = a + 1 + j := ⟨k - (a + 1), by omega⟩
        have e1 : a + 1 + j - (a + 1) = j := by omega
        have e2 : a + 1 + j - a = j + 1 := by omega
        rw [if_pos (by omega), if_pos h1, e1, e2]; simp
      · rw [if_neg (by omega), if_neg hk, if_neg h1]

/-- A range whose every byte is known reads as those bytes. -/
theorem Memory.readBytes_eq (bytes : List Byte) (m : Memory) (a : Nat)
    (h : ∀ k, k < bytes.length → Memory.read m (a + k) = bytes[k]?) :
    Memory.readBytes m a bytes.length = bytes := by
  induction bytes generalizing a with
  | nil => rfl
  | cons v rest ih =>
    have h0 := h 0 (by simp)
    simp only [List.length_cons, Memory.readBytes]
    rw [ih (a + 1) (fun k hk => by have := h (k + 1) (by simpa using hk); rw [show a + 1 + k = a + (k + 1) by omega]; simpa using this)]
    simp at h0
    simp [h0]

/-- A presented frame is the frame in `TXF`. -/
@[simp] theorem State.frameInTx_present (s : State) (f : List Byte) : (s.present f).frameInTx = f := by
  simp only [State.frameInTx, State.present_tx]
  apply Memory.readBytes_eq
  intro k hk
  simp [Memory.read_writeBytes, hk]

/-- The frame in `TXF` depends on the transmit buffer alone. -/
theorem State.frameInTx_congr {s t : State} (h : s.tx = t.tx) : s.frameInTx = t.frameInTx := by
  simp [State.frameInTx, h]

/-- Presenting a frame that fits keeps the buffer canonical. -/
theorem State.present_wf (s : State) (f : List Byte) (hf : f.length ≤ maxFrame) (h : Memory.wf s.tx.buf = true) :
    Memory.wf (s.present f).tx.buf = true := by
  simpa using Memory.writeBytes_wf f s.tx.buf 0 (by simpa using hf) h

/-- Presenting a frame, byte by byte. -/
theorem State.present_read (s : State) (f : List Byte) (k : Nat) :
    Memory.read (s.present f).tx.buf k = if k < f.length then f[k]? else Memory.read s.tx.buf k := by
  simp [Memory.read_writeBytes]

/-- Storing the same byte again changes nothing. -/
theorem Memory.write_write_same (m : Memory) (a : Nat) (v : Byte) :
    Memory.write (Memory.write m a v) a v = Memory.write m a v := by
  fun_induction Memory.write m a v <;> simp_all [Memory.write]

/-- A byte that storing again would not change is still so after a store at a higher offset. -/
theorem Memory.write_fixed_of_write {m : Memory} {a b : Nat} {v w : Byte} (hab : a < b)
    (h : Memory.write m a v = m) : Memory.write (Memory.write m b w) a v = Memory.write m b w := by
  induction m with
  | nil => simp [Memory.write] at h
  | cons c r ih =>
    obtain ⟨c, x⟩ := c
    unfold Memory.write at h
    by_cases h1 : a < c
    · simp [h1] at h
    · by_cases h2 : a = c
      · subst h2
        have hx : x = v := by simpa [eq_comm] using h
        subst hx
        have e : Memory.write ((a, x) :: r) b w = (a, x) :: Memory.write r b w := by
          simp [Memory.write, show ¬ b < a by omega, show b ≠ a by omega]
        rw [e]; simp [Memory.write]
      · simp [h1, h2] at h
        have e : Memory.write ((c, x) :: r) b w = (c, x) :: Memory.write r b w := by
          simp [Memory.write, show ¬ b < c by omega, show b ≠ c by omega]
        rw [e]
        simp [Memory.write, h1, h2, ih h]

/-- The same for several bytes at higher offsets. -/
theorem Memory.write_fixed_of_writeBytes (f : List Byte) {m : Memory} {a b : Nat} {v : Byte} (hab : a < b)
    (h : Memory.write m a v = m) : Memory.write (Memory.writeBytes m b f) a v = Memory.writeBytes m b f := by
  induction f generalizing m b with
  | nil => exact h
  | cons w f ih => exact ih (by omega) (Memory.write_fixed_of_write hab h)

/-- Storing the same bytes again changes nothing. -/
theorem Memory.writeBytes_writeBytes_same (f : List Byte) (m : Memory) (a : Nat) :
    Memory.writeBytes (Memory.writeBytes m a f) a f = Memory.writeBytes m a f := by
  induction f generalizing m a with
  | nil => rfl
  | cons w f ih =>
    have h := Memory.write_fixed_of_writeBytes f (Nat.lt_succ_self a) (Memory.write_write_same m a w)
    simp only [Memory.writeBytes]
    rw [h, ih]

/-- The buffer after reset is canonical. -/
theorem Memory.reset_wf (c : Config) : Memory.wf (State.resetWith c).tx.buf = true := rfl

end Sys2Proof.Machine
end

