-- ==== Sys2Proof/Laws/Build.lean ====
section
/-! SUPPORT. The frame builds and byte strings: lengths, when a build succeeds and with what, and byte-order round trips. -/

namespace Sys2Proof

@[simp] theorem addr3_length (a : Addr24) : (addr3 a).length = 3 := rfl

@[simp] theorem trailerBytes_length (t : Trailer) : (trailerBytes t).length = 4 := rfl

@[simp] theorem headerBytes_length (l c b i : Byte) (lo hi : Addr24) : (headerBytes l c b i lo hi).length = 10 := rfl

@[simp] theorem header_length (c : Byte) (n st len : Nat) (code i : Byte) : (header c n st len code i).length = 10 := rfl

@[simp] theorem withTrailer_length (l : List Byte) : (withTrailer l).length = l.length + 4 := by
  simp [withTrailer]

/-- The part of a completed byte string that its trailer covers. -/
theorem withTrailer_take (l : List Byte) : (withTrailer l).take ((withTrailer l).length - crcLen) = l := by
  have h : (withTrailer l).length - crcLen = l.length := by rw [withTrailer_length]; rfl
  rw [h, withTrailer, List.take_left]

/-- The trailer of a completed byte string. -/
theorem withTrailer_drop (l : List Byte) :
    (withTrailer l).drop ((withTrailer l).length - crcLen) = trailerBytes (crc32 l) := by
  have h : (withTrailer l).length - crcLen = l.length := by rw [withTrailer_length]; rfl
  rw [h, withTrailer, List.drop_left]

@[simp] theorem trailerOfBytes_trailerBytes (t : Trailer) : trailerOfBytes (trailerBytes t) = t := rfl

/-- Four bytes are the bytes of the trailer they make. -/
theorem trailerBytes_trailerOfBytes (l : List Byte) (h : l.length = 4) : trailerBytes (trailerOfBytes l) = l := by
  match l, h with
  | [_, _, _, _], _ => rfl

/-- The bits of the address three bytes make. -/
theorem addrOfBytes_getLsbD (b0 b1 b2 : Byte) (i : Nat) : (addrOfBytes b0 b1 b2).getLsbD i =
    if i < 8 then b0.getLsbD i else if i - 8 < 8 then b1.getLsbD (i - 8) else b2.getLsbD (i - 8 - 8) := by
  simp only [addrOfBytes, BitVec.getLsbD_append]

/-- An address is the address its three bytes make. -/
@[simp] theorem addrOfBytes_addr3 (a : Addr24) :
    addrOfBytes (a.extractLsb' 0 8) (a.extractLsb' 8 8) (a.extractLsb' 16 8) = a := by
  apply BitVec.eq_of_getLsbD_eq
  intro i hi
  simp only [addrOfBytes_getLsbD, BitVec.getLsbD_extractLsb']
  by_cases h1 : i < 8
  · simp [h1]
  · by_cases h2 : i - 8 < 8
    · simp [h1, h2, show 8 + (i - 8) = i by omega]
    · simp [h1, h2, show i - 8 - 8 < 8 by omega, show 16 + (i - 8 - 8) = i by omega]

/-- Three bytes are the bytes of the address they make. -/
theorem addr3_addrOfBytes (b0 b1 b2 : Byte) : addr3 (addrOfBytes b0 b1 b2) = [b0, b1, b2] := by
  simp only [addr3, List.cons.injEq, and_true]
  refine ⟨?_, ?_, ?_⟩ <;> apply BitVec.eq_of_getLsbD_eq <;> intro i hi <;>
    simp only [BitVec.getLsbD_extractLsb', addrOfBytes_getLsbD, hi, decide_true, Bool.true_and]
  · simp [hi]
  · simp [hi]
  · rw [if_neg (by omega), if_neg (by omega)]
    congr 1; omega

/-- The code of a bank is one of the three, and the selector of that code is that bank. -/
theorem bankCode_some {b : BankSelector} {code : Byte} (h : bankCode b = some code) :
    isBankCode code = true ∧ bankOfCode code = b := by
  cases b <;> simp [bankCode] at h <;> subst h <;> decide

/-- A bank code is the code of the selector it stands for. -/
theorem bankCode_bankOfCode {code : Byte} (h : isBankCode code = true) : bankCode (bankOfCode code) = some code := by
  simp only [isBankCode, Bool.or_eq_true, beq_iff_eq] at h
  obtain (rfl | rfl) | rfl := h <;> rfl

/-- A byte that is no bank code stands for an unknown selector. -/
theorem bankCode_bankOfCode_none {code : Byte} (h : isBankCode code = false) : bankCode (bankOfCode code) = none := by
  simp only [isBankCode, Bool.or_eq_false_iff, beq_eq_false_iff_ne] at h
  simp [bankOfCode, h.1.1, h.1.2, h.2, bankCode]

/-- The port's index of a well-formed selector gives it back. -/
theorem bankOfIndex_indexOfBank {b : BankSelector} (h : b.wellFormed = true) : bankOfIndex (indexOfBank b) = b := by
  cases b with
  | sdCard => rfl
  | eeprom => rfl
  | cpu => rfl
  | other k =>
    simp only [BankSelector.wellFormed, decide_eq_true_eq] at h
    obtain ⟨j, rfl⟩ : ∃ j, k = j + 3 := ⟨k - 3, by omega⟩
    rfl

namespace Machine

/-- When a read build succeeds, and with which frame. -/
theorem buildReadFrame_ok {a n : Nat} {b : BankSelector} {x : Byte} {f : List Byte} :
    buildReadFrame a n b x = .ok f ↔
      1 ≤ n ∧ ∃ code, bankCode b = some code ∧ f = withTrailer (header cmdRead 0 a n code x) := by
  unfold buildReadFrame
  split
  · simp; omega
  · split
    · next h => simp [h]
    · next code h => simp [h, eq_comm]; omega

/-- When a write build succeeds, and with which frame. -/
theorem buildWriteFrame_ok {a : Nat} {d : Option (List Byte)} {b : BankSelector} {x : Byte} {f : List Byte} :
    buildWriteFrame a d b x = .ok f ↔
      ∃ p code, d = some p ∧ 1 ≤ p.length ∧ p.length ≤ 236 ∧ bankCode b = some code ∧
        f = withTrailer (header cmdWrite p.length a p.length code x ++ p) := by
  unfold buildWriteFrame
  cases d with
  | none => simp
  | some p =>
    simp only [headerLen, crcLen, maxFrame]
    split
    · next h1 => simp; omega
    · cases hb : bankCode b with
      | none => simp
      | some code =>
        dsimp only
        by_cases h2 : 250 < 10 + p.length + 4
        · rw [if_pos h2]; simp; omega
        · rw [if_neg h2]
          simp only [Except.ok.injEq, Option.some.injEq]
          constructor
          · rintro rfl; exact ⟨p, code, rfl, by omega, by omega, rfl, rfl⟩
          · rintro ⟨p', code', rfl, -, -, rfl, rfl⟩; rfl

/-- Every built frame fits the transmit buffer. -/
theorem buildForSend_length {body : SendBody} {a : Nat} {b : BankSelector} {x : Byte} {f : List Byte}
    (h : buildForSend body a b x = .ok f) : 14 ≤ f.length ∧ f.length ≤ maxFrame := by
  cases body with
  | read n =>
    obtain ⟨-, code, -, rfl⟩ := buildReadFrame_ok.1 h
    simp [maxFrame]
  | write d =>
    obtain ⟨p, code, -, h1, h2, -, rfl⟩ := buildWriteFrame_ok.1 h
    simp [maxFrame]; omega

/-- A build that ends leaves everything but the transmit buffer and the answer. -/
theorem endBuild_cases (s : State) (r : Except Error (List Byte)) :
    (∃ e, r = .error e ∧ s.endBuild r = s.raise e) ∨
    (∃ f, r = .ok f ∧ s.endBuild r = (s.present f).answerWith (.frame f)) := by
  cases r with
  | error e => exact .inl ⟨e, rfl, rfl⟩
  | ok f => exact .inr ⟨f, rfl, rfl⟩

end Machine

end Sys2Proof
end

