-- ==== Sys2Proof/Laws/Crc.lean ====
section
/-! SUPPORT. The CRC generator against its reference form (`41_crc32_engine.md` R93): both formulations agree, one shift is
linear and loses nothing, and the byte orders of a trailer and of an address field agree with division. -/

namespace Sys2Proof

/-- One shift is linear over exclusive-or. -/
theorem refShift_xor (x y : Word) : refShift (x ^^^ y) = refShift x ^^^ refShift y := by
  unfold refShift
  rw [BitVec.getLsbD_xor, BitVec.ushiftRight_xor_distrib]
  generalize x >>> 1 = a
  generalize y >>> 1 = b
  cases x.getLsbD 0 <;> cases y.getLsbD 0 <;> simp
  · rw [BitVec.xor_assoc]
  · rw [BitVec.xor_assoc, BitVec.xor_assoc, BitVec.xor_comm b]
  · rw [BitVec.xor_assoc, BitVec.xor_comm _ (b ^^^ _), BitVec.xor_assoc]
    simp

/-- Eight shifts are linear over exclusive-or. -/
theorem refShift8_xor (x y : Word) : refShift8 (x ^^^ y) = refShift8 x ^^^ refShift8 y := by
  simp only [refShift8, refShift_xor]

/-- The one-bit step adds the data bit and shifts. -/
theorem crcStepBit_eq (c : Word) (d : Bool) : crcStepBit c d = refShift (c ^^^ (BitVec.ofBool d).setWidth 32) := by
  cases d
  · simp [crcStepBit, refShift]
  · simp only [crcStepBit, refShift, BitVec.getLsbD_xor, BitVec.ushiftRight_xor_distrib]
    have e1 : (BitVec.setWidth 32 (BitVec.ofBool true)).getLsbD 0 = true := by decide
    have e2 : (BitVec.setWidth 32 (BitVec.ofBool true)) >>> 1 = 0#32 := by decide
    rw [e1, e2]; simp

/-- A byte over a sum of registers. -/
theorem crcUpdate_xor (x y : Word) (b : Byte) : crcUpdate (x ^^^ y) b = refShift8 x ^^^ crcUpdate y b := by
  have h (x y : Word) (d : Bool) : crcStepBit (x ^^^ y) d = refShift x ^^^ crcStepBit y d := by
    rw [crcStepBit_eq, crcStepBit_eq, BitVec.xor_assoc, refShift_xor]
  have e (c : Word) : crcUpdate c b = crcStepBit (crcStepBit (crcStepBit (crcStepBit (crcStepBit (crcStepBit (crcStepBit
      (crcStepBit c (b.getLsbD 0)) (b.getLsbD 1)) (b.getLsbD 2)) (b.getLsbD 3)) (b.getLsbD 4)) (b.getLsbD 5))
      (b.getLsbD 6)) (b.getLsbD 7) := rfl
  simp only [e, h, refShift8]

/-- A byte from the zero register. -/
theorem crcUpdate_zero : ∀ b : Byte, crcUpdate 0#32 b = refShift8 (b.setWidth 32) := by decide +kernel

/-- The two formulations of one byte agree. -/
theorem crcUpdate_eq (c : Word) (b : Byte) : crcUpdate c b = refUpdate c b := by
  have h := crcUpdate_xor c 0#32 b
  rw [BitVec.xor_zero] at h
  rw [h, crcUpdate_zero, refUpdate, refShift8_xor]

/-- The two formulations of the CRC agree. -/
theorem crc32Word_eq (l : List Byte) : crc32Word l = refCrc l := by
  have h : crcUpdate = refUpdate := by funext c b; exact crcUpdate_eq c b
  simp [crc32Word, crcRun, refCrc, h]

/-- The two ways to take a word's four bytes agree. -/
theorem trailerOfWord_eq (w : Word) : trailerOfWord w = refTrailer w := by
  simp only [trailerOfWord, refTrailer, Trailer.mk.injEq]
  refine ⟨?_, ?_, ?_, ?_⟩ <;> apply BitVec.eq_of_toNat_eq <;> simp [BitVec.extractLsb', Nat.shiftRight_eq_div_pow]

/-- The CRC's four bytes by the reference form. -/
theorem crc32_eq (l : List Byte) : crc32 l = refTrailer (refCrc l) := by
  rw [crc32, trailerOfWord_eq, crc32Word_eq]

/-- Four bytes say which word they come from. -/
theorem refTrailer_inj {x y : Word} (h : refTrailer x = refTrailer y) : x = y := by
  simp only [refTrailer, Trailer.mk.injEq] at h
  obtain ⟨h0, h1, h2, h3⟩ := h
  have e0 := congrArg BitVec.toNat h0
  have e1 := congrArg BitVec.toNat h1
  have e2 := congrArg BitVec.toNat h2
  have e3 := congrArg BitVec.toNat h3
  simp only [BitVec.toNat_ofNat] at e0 e1 e2 e3
  apply BitVec.eq_of_toNat_eq
  have := x.isLt
  have := y.isLt
  omega

/-- The two ways to take an address field's three bytes agree. -/
theorem addr3_trunc24 (a : Nat) : addr3 (trunc24 a) = refAddrBytes a := by
  simp only [addr3, refAddrBytes, trunc24, List.cons.injEq, and_true]
  refine ⟨?_, ?_, ?_⟩ <;> apply BitVec.eq_of_toNat_eq <;> simp [BitVec.extractLsb', Nat.shiftRight_eq_div_pow] <;> omega

/-- One shift loses nothing. -/
theorem refShift_inj {x y : Word} (h : refShift x = refShift y) : x = y := by
  have h0 : refShift (x ^^^ y) = 0#32 := by rw [refShift_xor, h, BitVec.xor_self]
  generalize hz : x ^^^ y = z at h0
  have z0 : z = 0#32 := by
    unfold refShift at h0
    split at h0
    · have := congrArg (fun w => w.getLsbD 31) h0
      simp at this
    · next hb =>
      apply BitVec.eq_of_getLsbD_eq
      intro i hi
      cases i with
      | zero => simpa using hb
      | succ i =>
        have := congrArg (fun w => w.getLsbD i) h0
        simp only [BitVec.getLsbD_ushiftRight] at this
        rw [Nat.add_comm]; simpa using this
  rw [z0] at hz
  have e : x ^^^ y ^^^ y = y := by rw [hz]; simp
  rwa [BitVec.xor_assoc, BitVec.xor_self, BitVec.xor_zero] at e

/-- A byte sequence loses nothing of the register it starts from. -/
theorem crcRun_inj {c d : Word} (l : List Byte) (h : crcRun c l = crcRun d l) : c = d := by
  induction l generalizing c d with
  | nil => exact h
  | cons b l ih =>
    have h1 := ih h
    rw [crcUpdate_eq, crcUpdate_eq] at h1
    unfold refUpdate refShift8 at h1
    have h2 := refShift_inj <| refShift_inj <| refShift_inj <| refShift_inj <| refShift_inj <| refShift_inj <|
      refShift_inj <| refShift_inj h1
    have e : c ^^^ b.setWidth 32 ^^^ b.setWidth 32 = d ^^^ b.setWidth 32 ^^^ b.setWidth 32 := by rw [h2]
    simpa [BitVec.xor_assoc] using e

end Sys2Proof
end

