-- ==== Sys2Proof/Laws/Receive.lean ====
section
/-! SUPPORT. What a chunk, the judgement after it and the validation can do, each said once. -/

namespace Sys2Proof.Machine

/-- The validation leaves all but the pair and the events. -/
theorem validateSession_cases (s : State) :
    ((concat s.rx.chunks).length ≤ crcLen ∧ s.validateSession = s.emit (.error (.rangeError s.rx.total crcLen))) ∨
    (crcLen < (concat s.rx.chunks).length ∧ ∃ v,
      s.validateSession = (s.latchPair (pairOf (concat s.rx.chunks))).emit v ∧
      v = if trailersMatch (pairOf (concat s.rx.chunks)).expected (pairOf (concat s.rx.chunks)).received then .checksumOk
        else .error (.checksumMismatch (pairOf (concat s.rx.chunks)).expected (pairOf (concat s.rx.chunks)).received)) := by
  unfold State.validateSession State.rxBuf
  by_cases h : (concat s.rx.chunks).length ≤ crcLen
  · exact .inl ⟨h, by simp [h]⟩
  · refine .inr ⟨by omega, _, ?_, rfl⟩
    dsimp only
    rw [if_neg h]
    split <;> rfl

variable (s : State)

@[simp] theorem validateSession_cfg : s.validateSession.cfg = s.cfg := by
  obtain ⟨-, h⟩ | ⟨-, v, h, -⟩ := validateSession_cases s <;> simp [h]
@[simp] theorem validateSession_port : s.validateSession.port = s.port := by
  obtain ⟨-, h⟩ | ⟨-, v, h, -⟩ := validateSession_cases s <;> simp [h]
@[simp] theorem validateSession_crcReg : s.validateSession.crcReg = s.crcReg := by
  obtain ⟨-, h⟩ | ⟨-, v, h, -⟩ := validateSession_cases s <;> simp [h]
@[simp] theorem validateSession_tx : s.validateSession.tx = s.tx := by
  obtain ⟨-, h⟩ | ⟨-, v, h, -⟩ := validateSession_cases s <;> simp [h]
@[simp] theorem validateSession_rx : s.validateSession.rx = s.rx := by
  obtain ⟨-, h⟩ | ⟨-, v, h, -⟩ := validateSession_cases s <;> simp [h]
@[simp] theorem validateSession_busy : s.validateSession.busy = s.busy := by
  obtain ⟨-, h⟩ | ⟨-, v, h, -⟩ := validateSession_cases s <;> simp [h]
@[simp] theorem validateSession_tmo : s.validateSession.tmo = s.tmo := by
  obtain ⟨-, h⟩ | ⟨-, v, h, -⟩ := validateSession_cases s <;> simp [h]
@[simp] theorem validateSession_answer : s.validateSession.answer = s.answer := by
  obtain ⟨-, h⟩ | ⟨-, v, h, -⟩ := validateSession_cases s <;> simp [h]
@[simp] theorem validateSession_sent : s.validateSession.sent = s.sent := by
  obtain ⟨-, h⟩ | ⟨-, v, h, -⟩ := validateSession_cases s <;> simp [h]

/-- The validation adds one event. -/
theorem validateSession_events : ∃ v, s.validateSession.events = s.events ++ [v] := by
  obtain ⟨-, h⟩ | ⟨-, v, h, -⟩ := validateSession_cases s
  · exact ⟨_, by rw [h]; rfl⟩
  · exact ⟨v, by rw [h]; rfl⟩

/-- The judgement after a chunk: completion without or with validation, overrun, or nothing. -/
theorem judgeSession_cases :
    (s.rx.total = s.rx.expected ∧ s.cfg.rxCrcCheck = false ∧
      s.judgeSession = (s.setRxState .completed).emit (.completed s.rx.total)) ∨
    (s.rx.total = s.rx.expected ∧ s.cfg.rxCrcCheck = true ∧
      s.judgeSession = ((s.setRxState .completed).emit (.completed s.rx.total)).validateSession) ∨
    (s.rx.expected < s.rx.total ∧
      s.judgeSession = (s.setRxState .overrun).emit (.error (.receiveOverrun s.rx.total s.rx.expected))) ∨
    (s.rx.total < s.rx.expected ∧ s.judgeSession = s) := by
  unfold State.judgeSession
  by_cases h : s.rx.total = s.rx.expected
  · cases hc : s.cfg.rxCrcCheck
    · exact .inl ⟨h, rfl, by simp [h]⟩
    · exact .inr (.inl ⟨h, rfl, by simp [h]⟩)
  · by_cases h2 : s.rx.expected < s.rx.total
    · exact .inr (.inr (.inl ⟨h2, by simp [h, h2]⟩))
    · exact .inr (.inr (.inr ⟨by omega, by simp [h, h2]⟩))

@[simp] theorem judgeSession_cfg : s.judgeSession.cfg = s.cfg := by
  obtain ⟨-, -, h⟩ | ⟨-, -, h⟩ | ⟨-, h⟩ | ⟨-, h⟩ := judgeSession_cases s <;> simp [h]
@[simp] theorem judgeSession_port : s.judgeSession.port = s.port := by
  obtain ⟨-, -, h⟩ | ⟨-, -, h⟩ | ⟨-, h⟩ | ⟨-, h⟩ := judgeSession_cases s <;> simp [h]
@[simp] theorem judgeSession_crcReg : s.judgeSession.crcReg = s.crcReg := by
  obtain ⟨-, -, h⟩ | ⟨-, -, h⟩ | ⟨-, h⟩ | ⟨-, h⟩ := judgeSession_cases s <;> simp [h]
@[simp] theorem judgeSession_tx : s.judgeSession.tx = s.tx := by
  obtain ⟨-, -, h⟩ | ⟨-, -, h⟩ | ⟨-, h⟩ | ⟨-, h⟩ := judgeSession_cases s <;> simp [h]
@[simp] theorem judgeSession_busy : s.judgeSession.busy = s.busy := by
  obtain ⟨-, -, h⟩ | ⟨-, -, h⟩ | ⟨-, h⟩ | ⟨-, h⟩ := judgeSession_cases s <;> simp [h]
@[simp] theorem judgeSession_tmo : s.judgeSession.tmo = s.tmo := by
  obtain ⟨-, -, h⟩ | ⟨-, -, h⟩ | ⟨-, h⟩ | ⟨-, h⟩ := judgeSession_cases s <;> simp [h]
@[simp] theorem judgeSession_answer : s.judgeSession.answer = s.answer := by
  obtain ⟨-, -, h⟩ | ⟨-, -, h⟩ | ⟨-, h⟩ | ⟨-, h⟩ := judgeSession_cases s <;> simp [h]
@[simp] theorem judgeSession_sent : s.judgeSession.sent = s.sent := by
  obtain ⟨-, -, h⟩ | ⟨-, -, h⟩ | ⟨-, h⟩ | ⟨-, h⟩ := judgeSession_cases s <;> simp [h]

/-- The judgement writes `RX_STATE` and nothing else of the session. -/
theorem judgeSession_rx : s.judgeSession.rx = { s.rx with
    state := if s.rx.total = s.rx.expected then .completed
      else if s.rx.expected < s.rx.total then .overrun else s.rx.state } := by
  obtain ⟨h1, -, h⟩ | ⟨h1, -, h⟩ | ⟨h1, h⟩ | ⟨h1, h⟩ := judgeSession_cases s
  · simp [h, h1]
  · simp [h, h1]
  · simp [h, h1, show s.rx.total ≠ s.rx.expected by omega]
  · simp [h, show ¬ s.rx.expected < s.rx.total by omega, show s.rx.total ≠ s.rx.expected by omega]

/-- The judgement only adds events. -/
theorem judgeSession_events : ∃ l, s.judgeSession.events = s.events ++ l := by
  obtain ⟨-, -, h⟩ | ⟨-, -, h⟩ | ⟨-, h⟩ | ⟨-, h⟩ := judgeSession_cases s
  · exact ⟨_, by rw [h]; rfl⟩
  · obtain ⟨v, hv⟩ := validateSession_events ((s.setRxState .completed).emit (.completed s.rx.total))
    exact ⟨[.completed s.rx.total, v], by rw [h, hv]; simp⟩
  · exact ⟨_, by rw [h]; rfl⟩
  · exact ⟨[], by rw [h]; simp⟩

/-- A chunk that ends in a next state was dropped, or appended and judged. -/
theorem receiveChunk_next {s t : State} {c : List Byte} (h : receiveChunk c s = .next t) :
    (s.rx.state ≠ .accumulating ∧ t = s.answerWith .nothing) ∨
    (s.rx.state = .accumulating ∧ s.cfg.storeHolds (s.rx.total + c.length) = true ∧
      t = (((s.appendChunk c).emit (.progress c)).judgeSession).answerWith .nothing) := by
  unfold receiveChunk at h
  split at h
  · next hs => cases h; exact .inl ⟨by simp [hs], rfl⟩
  · next hs => cases h; exact .inl ⟨by simp [hs], rfl⟩
  · next hs => cases h; exact .inl ⟨by simp [hs], rfl⟩
  · next hs =>
    split at h
    · next hc => cases h; exact .inr ⟨hs, hc, rfl⟩
    · cases h

/-- A capacity that is large enough, if there is one, is a store that holds. -/
theorem storeHolds_of_le {c : Config} {n : Nat} (h : ∀ cap, c.rxbufCap = some cap → n ≤ cap) : c.storeHolds n = true := by
  unfold Config.storeHolds; split
  · rfl
  · next cap hc => simpa using h cap hc

/-- A chunk in an open session that the store can take is appended and judged. -/
theorem receiveChunk_open {s : State} {c : List Byte} (ha : s.rx.state = .accumulating)
    (hc : s.cfg.storeHolds (s.rx.total + c.length) = true) : receiveChunk c s =
      .next ((((s.appendChunk c).emit (.progress c)).judgeSession).answerWith .nothing) := by
  simp only [receiveChunk, ha, hc, if_true]

/-- A chunk outside an open session is dropped. -/
theorem receiveChunk_dropped {s : State} {c : List Byte} (ha : s.rx.state ≠ .accumulating) :
    receiveChunk c s = .next (s.answerWith .nothing) := by
  unfold receiveChunk; split <;> simp_all

end Sys2Proof.Machine
end

