-- ==== Sys2Proof/Laws/Step.lean ====
section
/-! SUPPORT. Everything an instruction can do, said once: `Effect s i t` lists the ways `exec i s` can end in `t`, and
`exec_effect` says there is no other. -/

namespace Sys2Proof.Machine

/-- The frames a build operation can make. -/
def Built (f : List Byte) : Prop := ∃ body a b x, buildForSend body a b x = .ok f

/-- The ways an instruction takes a state to a next state. -/
inductive Effect (s : State) : Instr → State → Prop where
  | raised (i : Instr) (e : Error) : Effect s i (s.raise e)
  | hashed (bytes : Option (List Byte)) (o n : Option Nat) (r : Word) (v : Trailer) :
      Effect s (.crcHash bytes o n) ({ s with crcReg := r }.answerWith (.crc v))
  | built (i : Instr) (f : List Byte) (hf : Built f) : Effect s i ((s.present f).answerWith (.frame f))
  | counted (w : Bool) (n : Nat) :
      Effect s (.expectedLen w n) (s.answerWith (.count (expectedResponseLength w n)))
  | opened (e : Nat) (h : s.cfg.storeHolds e = true) :
      Effect s (.rxReset e) ((s.openSession e).answerWith .nothing)
  | dropped (i : Instr) (h : s.rx.state ≠ .accumulating) : Effect s i (s.answerWith .nothing)
  | received (i : Instr) (c : List Byte) (hs : s.rx.state = .accumulating)
      (hc : s.cfg.storeHolds (s.rx.total + c.length) = true) :
      Effect s i ((((s.appendChunk c).emit (.progress c)).judgeSession).answerWith .nothing)
  | validated (chunks : List (List Byte)) (h : crcLen < (concat chunks).length) :
      Effect s (.chkValidate chunks 4) ((s.latchPair (pairOf (concat chunks))).answerWith
        (.verdict (trailersMatch (pairOf (concat chunks)).expected (pairOf (concat chunks)).received)))
  | diagnosed (v : Bool) (e r : Option Trailer) : Effect s .chkDiag (s.answerWith (.diag v e r))
  | sent (body : SendBody) (a : Nat) (b : BankSelector) (x : Byte) (now : Nat) (f : List Byte)
      (hf : buildForSend body a b x = .ok f) (hb : s.busy = false)
      (hc : s.cfg.storeHolds (expectedOfBody body) = true) :
      Effect s (.txnSend body a b x now true)
        ((((((s.setBusy true).present f).transportSend).openSession (expectedOfBody body)).startSupervisor
          now).answerWith .nothing)
  | unpolled (now : Nat) (h : s.tmo.state ≠ .waiting) : Effect s (.tmoPoll now) (s.answerWith .nothing)
  | polled (now : Nat) (h : s.tmo.state = .waiting) : Effect s (.tmoPoll now) ((s.pollWaiting now).answerWith .nothing)
  | continued (h : s.tmo.state = .awaitingDecision) : Effect s (.tmoDecide true) (s.escalate.answerWith .nothing)
  | aborted (h : s.tmo.state = .awaitingDecision) :
      Effect s (.tmoDecide false) (((s.haltSupervisor .aborted).emit .supervisorAborted).answerWith .nothing)

theorem endBuild_effect {s t : State} {i : Instr} {body : SendBody} {a : Nat} {b : BankSelector} {x : Byte}
    (h : (.next (s.endBuild (buildForSend body a b x)) : Outcome) = .next t) : Effect s i t := by
  cases h
  obtain ⟨e, -, h⟩ | ⟨f, hf, h⟩ := endBuild_cases s (buildForSend body a b x)
  · rw [h]; exact .raised i e
  · rw [h]; exact .built i f ⟨_, _, _, _, hf⟩

theorem emitFrame_effect {s t : State} {i : Instr} {w : List Byte} {body : SendBody} {a : Nat} {b : BankSelector}
    {x : Byte} (h : emitFrame w (buildForSend body a b x) s = .next t) : Effect s i t := by
  unfold emitFrame at h
  split at h
  · cases h; exact .raised i _
  · split at h
    · exact endBuild_effect h
    · cases h

theorem receiveChunk_effect {s t : State} {i : Instr} {c : List Byte} (h : receiveChunk c s = .next t) :
    Effect s i t := by
  obtain ⟨hs, rfl⟩ | ⟨hs, hc, rfl⟩ := receiveChunk_next h
  · exact .dropped i hs
  · exact .received i c hs hc

/-- There is no other way. -/
theorem exec_effect {i : Instr} {s t : State} (h : exec i s = .next t) : Effect s i t := by
  cases i with
  | readReq bank x lo hi crc => exact emitFrame_effect (body := .read _) h
  | writeReq l bank x lo hi p crc => exact emitFrame_effect (body := .write (some p)) h
  | readRsp st d crc => exact receiveChunk_effect h
  | writeAck st crc => exact receiveChunk_effect h
  | crcHash bytes o n =>
    cases bytes with
    | none => cases h; exact .raised _ _
    | some buffer =>
      simp only [exec, execCrcHash] at h
      split at h
      · cases h; exact .raised _ _
      · cases h; exact .hashed _ _ _ _ _
  | buildRead a n b x => exact endBuild_effect (body := .read _) h
  | buildWrite a d b x => exact endBuild_effect (body := .write _) h
  | expectedLen w n => cases h; exact .counted w n
  | rxReset e =>
    simp only [exec, execRxReset] at h
    split at h
    · next hc => cases h; exact .opened e hc
    · cases h
  | rxChunk c => exact receiveChunk_effect h
  | chkValidate chunks n =>
    simp only [exec, execChkValidate] at h
    split at h
    · cases h
    · next hn =>
      obtain rfl : n = 4 := by simpa using hn
      split at h
      · cases h; exact .raised _ _
      · next hl => cases h; exact .validated chunks (by simpa using hl)
  | chkDiag =>
    simp only [exec, execChkDiag] at h
    split at h <;> cases h <;> exact .diagnosed _ _ _
  | txnSend body a b x now ready =>
    simp only [exec, execTxnSend] at h
    split at h
    · cases h; exact .raised _ _
    · next f hf =>
      split at h
      · cases h; exact .raised _ _
      · next hb =>
        split at h
        · cases h; exact .raised _ _
        · next hr =>
          split at h
          · cases h
          · next hc =>
            cases h
            obtain rfl : ready = true := by simpa using hr
            exact .sent body a b x now f hf (by simpa using hb) (by simpa using hc)
  | tmoPoll now =>
    simp only [exec, execTmoPoll] at h
    split at h <;> next hs => cases h; first | exact .polled now hs | exact .unpolled now (by simp [hs])
  | tmoDecide goOn =>
    simp only [exec, execTmoDecide] at h
    split at h
    · next hs =>
      cases goOn with
      | true => cases h; exact .continued hs
      | false => cases h; exact .aborted hs
    all_goals cases h

/-- A step does nothing when nothing is presented, and otherwise runs what the oldest entry decodes to. -/
theorem step_cases {s t : State} (h : step s = .next t) :
    (s.port = [] ∧ t = s) ∨
    ∃ p rest i, s.port = p :: rest ∧ decode s.cfg p = .ok i ∧ exec i { s with port := rest } = .next t := by
  unfold step at h
  split at h
  · next hp => cases h; exact .inl ⟨hp, rfl⟩
  · next p rest hp =>
    split at h
    · cases h
    · next i hd => exact .inr ⟨p, rest, i, hp, hd, h⟩

/-- The ways a poll in `Waiting` can end. -/
theorem pollWaiting_cases (s : State) (now : Nat) :
    (s.rx.state = .completed ∧ s.pollWaiting now =
      (s.haltSupervisor .completed).emit (.supervisorCompleted (elapsedSince s.tmo.start now))) ∨
    (s.rx.state = .overrun ∧ s.pollWaiting now = s.haltSupervisor .halted) ∨
    ((s.rx.state = .idle ∨ s.rx.state = .accumulating) ∧ s.tmo.thresholdMs ≤ elapsedSince s.tmo.start now ∧
      s.pollWaiting now = (s.setTmoState .awaitingDecision).emit (.decisionRequest s.tmo.thresholdMs s.tmo.attempt)) ∨
    ((s.rx.state = .idle ∨ s.rx.state = .accumulating) ∧ elapsedSince s.tmo.start now < s.tmo.thresholdMs ∧
      s.pollWaiting now = s) := by
  unfold State.pollWaiting
  cases hr : s.rx.state <;> by_cases ht : s.tmo.thresholdMs ≤ elapsedSince s.tmo.start now <;> simp [ht] <;> omega

@[simp] theorem pollWaiting_cfg (s : State) (now : Nat) : (s.pollWaiting now).cfg = s.cfg := by
  obtain ⟨-, h⟩ | ⟨-, h⟩ | ⟨-, -, h⟩ | ⟨-, -, h⟩ := pollWaiting_cases s now <;> simp [h]
@[simp] theorem pollWaiting_port (s : State) (now : Nat) : (s.pollWaiting now).port = s.port := by
  obtain ⟨-, h⟩ | ⟨-, h⟩ | ⟨-, -, h⟩ | ⟨-, -, h⟩ := pollWaiting_cases s now <;> simp [h]
@[simp] theorem pollWaiting_crcReg (s : State) (now : Nat) : (s.pollWaiting now).crcReg = s.crcReg := by
  obtain ⟨-, h⟩ | ⟨-, h⟩ | ⟨-, -, h⟩ | ⟨-, -, h⟩ := pollWaiting_cases s now <;> simp [h]
@[simp] theorem pollWaiting_tx (s : State) (now : Nat) : (s.pollWaiting now).tx = s.tx := by
  obtain ⟨-, h⟩ | ⟨-, h⟩ | ⟨-, -, h⟩ | ⟨-, -, h⟩ := pollWaiting_cases s now <;> simp [h]
@[simp] theorem pollWaiting_rx (s : State) (now : Nat) : (s.pollWaiting now).rx = s.rx := by
  obtain ⟨-, h⟩ | ⟨-, h⟩ | ⟨-, -, h⟩ | ⟨-, -, h⟩ := pollWaiting_cases s now <;> simp [h]
@[simp] theorem pollWaiting_chk (s : State) (now : Nat) : (s.pollWaiting now).chk = s.chk := by
  obtain ⟨-, h⟩ | ⟨-, h⟩ | ⟨-, -, h⟩ | ⟨-, -, h⟩ := pollWaiting_cases s now <;> simp [h]
@[simp] theorem pollWaiting_answer (s : State) (now : Nat) : (s.pollWaiting now).answer = s.answer := by
  obtain ⟨-, h⟩ | ⟨-, h⟩ | ⟨-, -, h⟩ | ⟨-, -, h⟩ := pollWaiting_cases s now <;> simp [h]
@[simp] theorem pollWaiting_sent (s : State) (now : Nat) : (s.pollWaiting now).sent = s.sent := by
  obtain ⟨-, h⟩ | ⟨-, h⟩ | ⟨-, -, h⟩ | ⟨-, -, h⟩ := pollWaiting_cases s now <;> simp [h]

/-- A poll only adds events. -/
theorem pollWaiting_events (s : State) (now : Nat) : ∃ l, (s.pollWaiting now).events = s.events ++ l := by
  obtain ⟨-, h⟩ | ⟨-, h⟩ | ⟨-, -, h⟩ | ⟨-, -, h⟩ := pollWaiting_cases s now
  · exact ⟨_, by rw [h]; rfl⟩
  · exact ⟨[], by simp [h]⟩
  · exact ⟨_, by rw [h]; rfl⟩
  · exact ⟨[], by simp [h]⟩

/-- A poll that ends in a next state did nothing outside `Waiting`, or one turn of the loop in it. -/
theorem tmoPoll_next {s t : State} {now : Nat} (h : exec (.tmoPoll now) s = .next t) :
    (s.tmo.state ≠ .waiting ∧ t = s.answerWith .nothing) ∨
    (s.tmo.state = .waiting ∧ t = (s.pollWaiting now).answerWith .nothing) := by
  simp only [exec, execTmoPoll] at h
  split at h <;> next hs => cases h; first | exact .inr ⟨hs, rfl⟩ | exact .inl ⟨by simp [hs], rfl⟩

/-- A send whose build makes a frame, with the guard free, the transport ready and a store that holds. -/
theorem txnSend_passes {s : State} {body : SendBody} {a : Nat} {b : BankSelector} {x : Byte} {now : Nat} {f : List Byte}
    (hf : buildForSend body a b x = .ok f) (hb : s.busy = false)
    (hc : s.cfg.storeHolds (expectedOfBody body) = true) : exec (.txnSend body a b x now true) s =
      .next ((((((s.setBusy true).present f).transportSend).openSession (expectedOfBody body)).startSupervisor
        now).answerWith .nothing) := by
  simp [exec, execTxnSend, hf, hb, hc]

end Sys2Proof.Machine
end

