-- ==== Sys2Proof/Laws/Frame.lean ====
section
/-! SUPPORT. Frames against the layout of `30_encoding.md` R61 and the predicate of R75: what the builds make, which request
rows are well-formed frames, and the pair the validator takes from a byte string. -/

namespace Sys2Proof

/-- A byte string with a trailer splits into the two. -/
theorem append_trailer_split (l : List Byte) (t : Trailer) :
    (l ++ trailerBytes t).take ((l ++ trailerBytes t).length - crcLen) = l ∧
    (l ++ trailerBytes t).drop ((l ++ trailerBytes t).length - crcLen) = trailerBytes t := by
  have h : (l ++ trailerBytes t).length - crcLen = l.length := by
    rw [List.length_append, trailerBytes_length]; show l.length + 4 - 4 = _; omega
  rw [h, List.take_left, List.drop_left]; exact ⟨rfl, rfl⟩

/-- A trailer's bytes say which trailer it is. -/
theorem trailerBytes_inj {a b : Trailer} (h : trailerBytes a = trailerBytes b) : a = b := by
  simpa using congrArg trailerOfBytes h

/-- The banks of the reference form are the selectors with a code. -/
theorem mem_refBanks {b : BankSelector} {code : Byte} : (b, code) ∈ refBanks ↔ bankCode b = some code := by
  cases b <;> simp [refBanks, bankCode, eq_comm]

/-- What a read build makes is the layout's frame. -/
theorem readFrame_eq (a n : Nat) (code x : Byte) :
    withTrailer (header cmdRead 0 a n code x) = refReadFrame a n code x := by
  simp only [withTrailer, header, headerBytes, crc32_eq, refReadFrame, addr3_trunc24]; rfl

/-- What a write build makes is the layout's frame. -/
theorem writeFrame_eq (a : Nat) (p : List Byte) (code x : Byte) :
    withTrailer (header cmdWrite p.length a p.length code x ++ p) = refWriteFrame a p code x := by
  simp only [withTrailer, header, headerBytes, crc32_eq, refWriteFrame, addr3_trunc24, headerLen, crcLen]
  rw [show 10 + p.length + 4 = 14 + p.length by omega]; rfl

/-- Which read rows are well-formed frames. -/
theorem isRequestFrame_readReq (bank x : Byte) (lo hi : Addr24) (crc : Trailer) :
    isRequestFrame (readReqBytes bank x lo hi crc) = true ↔
      isBankCode bank = true ∧ crc = crc32 (headerBytes 0x0E#8 cmdRead bank x lo hi) := by
  have ht := append_trailer_split (headerBytes 0x0E#8 cmdRead bank x lo hi) crc
  simp only [isRequestFrame, readReqBytes]
  rw [ht.1, ht.2]
  have hr : cmdRead ≠ cmdWrite := by decide
  simp [headerBytes, frameByte, maxFrame, hr]
  intro _
  exact ⟨trailerBytes_inj, fun h => by rw [h]⟩

/-- Which write rows are well-formed frames. -/
theorem isRequestFrame_writeReq (l bank x : Byte) (lo hi : Addr24) (p : List Byte) (crc : Trailer) :
    isRequestFrame (writeReqBytes l bank x lo hi p crc) = true ↔
      isBankCode bank = true ∧ 1 ≤ p.length ∧ p.length ≤ 236 ∧ l = BitVec.ofNat 8 (14 + p.length) ∧
      trunc24 (lo.toNat + p.length - 1) = hi ∧ crc = crc32 (headerBytes l cmdWrite bank x lo hi ++ p) := by
  have ht := append_trailer_split (headerBytes l cmdWrite bank x lo hi ++ p) crc
  have hr : cmdWrite ≠ cmdRead := by decide
  have hl : (writeReqBytes l bank x lo hi p crc).length = 14 + p.length := by simp [writeReqBytes]; omega
  have b : ∀ i < 10, frameByte (writeReqBytes l bank x lo hi p crc) i =
      frameByte (headerBytes l cmdWrite bank x lo hi) i := by
    intro i hi
    simp only [frameByte, writeReqBytes, List.append_assoc]
    rw [List.getD_append]; simpa using hi
  have e1 : (writeReqBytes l bank x lo hi p crc).take ((writeReqBytes l bank x lo hi p crc).length - crcLen) =
      headerBytes l cmdWrite bank x lo hi ++ p := ht.1
  have e2 : (writeReqBytes l bank x lo hi p crc).drop ((writeReqBytes l bank x lo hi p crc).length - crcLen) =
      trailerBytes crc := ht.2
  simp only [isRequestFrame]
  generalize writeReqBytes l bank x lo hi p crc = f at *
  rw [e1, e2, b 0 (by omega), b 1 (by omega), b 2 (by omega), b 4 (by omega), b 5 (by omega), b 6 (by omega),
    b 7 (by omega), b 8 (by omega), b 9 (by omega), hl]
  have g0 : frameByte (headerBytes l cmdWrite bank x lo hi) 0 = l := rfl
  have g1 : frameByte (headerBytes l cmdWrite bank x lo hi) 1 = cmdWrite := rfl
  have g2 : frameByte (headerBytes l cmdWrite bank x lo hi) 2 = bank := rfl
  have gl : addrOfBytes (frameByte (headerBytes l cmdWrite bank x lo hi) 4)
      (frameByte (headerBytes l cmdWrite bank x lo hi) 5)
      (frameByte (headerBytes l cmdWrite bank x lo hi) 6) = lo := addrOfBytes_addr3 lo
  have gh : addrOfBytes (frameByte (headerBytes l cmdWrite bank x lo hi) 7)
      (frameByte (headerBytes l cmdWrite bank x lo hi) 8)
      (frameByte (headerBytes l cmdWrite bank x lo hi) 9) = hi := addrOfBytes_addr3 hi
  rw [g0, g1, g2, gl, gh, show 14 + p.length - 14 = p.length by omega]
  simp only [Bool.and_eq_true, Bool.or_eq_true, decide_eq_true_eq, beq_iff_eq, bne_iff_ne, maxFrame]
  constructor
  · rintro ⟨⟨⟨⟨⟨⟨h1, h2⟩, h3⟩, h4⟩, h5⟩, h6⟩, h7⟩
    rcases h4 with ⟨h4, -⟩ | ⟨-, h4⟩
    · exact absurd h4 hr
    · rcases h7 with h7 | h7
      · exact absurd rfl h7
      · exact ⟨h5, by omega, by omega, h2, h7, trailerBytes_inj h6⟩
  · rintro ⟨h1, h2, h3, h4, h5, h6⟩
    exact ⟨⟨⟨⟨⟨⟨by omega, h4⟩, by omega⟩, .inr ⟨trivial, by omega⟩⟩, h1⟩, by rw [← h6]⟩, .inr h5⟩

/-- A read build's frame is a read row's bytes. -/
theorem withTrailer_read (a n : Nat) (code x : Byte) : withTrailer (header cmdRead 0 a n code x) =
    readReqBytes code x (trunc24 a) (trunc24 (a + n - 1)) (crc32 (header cmdRead 0 a n code x)) := rfl

/-- A write build's frame is a write row's bytes. -/
theorem withTrailer_write (a : Nat) (p : List Byte) (code x : Byte) :
    withTrailer (header cmdWrite p.length a p.length code x ++ p) =
    writeReqBytes (BitVec.ofNat 8 (headerLen + p.length + crcLen)) code x (trunc24 a) (trunc24 (a + p.length - 1)) p
      (crc32 (header cmdWrite p.length a p.length code x ++ p)) := rfl

/-- What a build makes is a well-formed frame. -/
theorem isRequestFrame_built {body : SendBody} {a : Nat} {b : BankSelector} {x : Byte} {f : List Byte}
    (h : Machine.buildForSend body a b x = .ok f) : isRequestFrame f = true := by
  cases body with
  | read n =>
    obtain ⟨-, code, hc, rfl⟩ := Machine.buildReadFrame_ok.1 h
    exact (isRequestFrame_readReq ..).2 ⟨(bankCode_some hc).1, rfl⟩
  | write d =>
    obtain ⟨p, code, rfl, h1, h2, hc, rfl⟩ := Machine.buildWriteFrame_ok.1 h
    have e : headerLen + p.length + crcLen = 14 + p.length := by show 10 + p.length + 4 = _; omega
    refine (isRequestFrame_writeReq ..).2 ⟨(bankCode_some hc).1, h1, h2, by rw [e], ?_, rfl⟩
    apply BitVec.eq_of_toNat_eq
    simp [trunc24]
    omega

/-- The comparison of two trailers is equality. -/
theorem trailersMatch_eq (a b : Trailer) : Machine.trailersMatch a b = decide (a = b) := by
  cases a; cases b; rw [Bool.eq_iff_iff]; simp [Machine.trailersMatch, and_assoc]

/-- The pair the validator takes from a byte string with a trailer. -/
theorem pairOf_append (p : List Byte) (t : Trailer) :
    Machine.pairOf (p ++ trailerBytes t) = { expected := refTrailer (refCrc p), received := t, valid := true } := by
  have h := append_trailer_split p t
  simp only [Machine.pairOf, Machine.checkedPayload, Machine.receivedTrailer, h, crc32_eq, trailerOfBytes_trailerBytes]

end Sys2Proof
end

