-- ==== Sys2Proof/Laws/PerInstr.lean ====
section
/-! SUPPORT. For every instruction: what the encoder presents carries the bits `spec/opcode_table.json` fixes for the
instruction's row (`30_encoding.md` R73, R76). -/

namespace Sys2Proof.Laws.RowBits

/-- The bits a row of the table fixes. -/
inductive Row where
  | req (value mask : Nat)
  | rsp
  | op (select : Nat)

/-- The row of an instruction, from the table. -/
def rowOf (i : Instr) : Row :=
  match i with
  | .readReq _ _ _ _ _ => .req 0x0EAA 0xFFFF
  | .writeReq _ _ _ _ _ _ _ => .req 0x00DD 0x00FF
  | .readRsp _ _ _ => .rsp
  | .writeAck _ _ => .rsp
  | .crcHash _ _ _ => .op 0x1
  | .buildRead _ _ _ _ => .op 0x2
  | .buildWrite _ _ _ _ => .op 0x3
  | .expectedLen _ _ => .op 0x4
  | .rxReset _ => .op 0x5
  | .rxChunk _ => .op 0x6
  | .chkValidate _ _ => .op 0x7
  | .chkDiag => .op 0x8
  | .txnSend _ _ _ _ _ _ => .op 0x9
  | .tmoPoll _ => .op 0xA
  | .tmoDecide _ => .op 0xB

/-- What is presented carries a row's bits. -/
def Carries (p : Presented) (r : Row) : Prop :=
  match p, r with
  | .request f, .req value mask => ((frameByte f 0).toNat * 256 + (frameByte f 1).toNat) &&& mask = value
  | .response bytes, .rsp => 5 ≤ bytes.length
  | .op select _, .op code => select.toNat = code
  | _, _ => False

/-- The encoder's output carries the row's bits. -/
def Statement (i : Instr) : Prop := Carries (encode i) (rowOf i)

theorem readReq (bank intention : Byte) (lo hi : Addr24) (crc : Trailer) :
    Statement (.readReq bank intention lo hi crc) := by
  simp [Statement, Carries, rowOf, encode, readReqBytes, headerBytes, frameByte]

theorem writeReq (length bank intention : Byte) (lo hi : Addr24) (payload : List Byte) (crc : Trailer) :
    Statement (.writeReq length bank intention lo hi payload crc) := by
  simp only [Statement, Carries, rowOf, encode, writeReqBytes, headerBytes, frameByte]
  rw [show (0x00FF : Nat) = 2 ^ 8 - 1 from rfl, Nat.and_two_pow_sub_one_eq_mod]
  simp

theorem readRsp (status : Byte) (data : List Byte) (crc : Trailer) : Statement (.readRsp status data crc) := by
  show 5 ≤ (status :: (data ++ trailerBytes crc)).length
  simp [trailerBytes]

theorem writeAck (status : Byte) (crc : Trailer) : Statement (.writeAck status crc) := by
  show 5 ≤ (status :: ([] ++ trailerBytes crc)).length
  simp [trailerBytes]

theorem crcHash (bytes : Option (List Byte)) (offset count : Option Nat) :
    Statement (.crcHash bytes offset count) := rfl

theorem buildRead (startAddr length : Nat) (bank : BankSelector) (intention : Byte) :
    Statement (.buildRead startAddr length bank intention) := rfl

theorem buildWrite (startAddr : Nat) (data : Option (List Byte)) (bank : BankSelector) (intention : Byte) :
    Statement (.buildWrite startAddr data bank intention) := rfl

theorem expectedLen (isWrite : Bool) (length : Nat) : Statement (.expectedLen isWrite length) := rfl

theorem rxReset (expectedTotal : Nat) : Statement (.rxReset expectedTotal) := rfl

theorem rxChunk (chunk : List Byte) : Statement (.rxChunk chunk) := rfl

theorem chkValidate (chunks : List (List Byte)) (checksumLength : Nat) :
    Statement (.chkValidate chunks checksumLength) := rfl

theorem chkDiag : Statement .chkDiag := rfl

theorem txnSend (body : SendBody) (startAddr : Nat) (bank : BankSelector) (intention : Byte) (now : Nat)
    (ready : Bool) : Statement (.txnSend body startAddr bank intention now ready) := by
  cases body <;> rfl

theorem tmoPoll (now : Nat) : Statement (.tmoPoll now) := rfl

theorem tmoDecide (goOn : Bool) : Statement (.tmoDecide goOn) := rfl

end Sys2Proof.Laws.RowBits
end

