-- ==== Sys2Proof/Tests/Slice0.lean ====
section
/-! SUPPORT. Tests. Expected values are those of `95_test_vectors.md`, at the vector each docstring names, or are written out
from the encodings of `30_encoding.md`. The last part gives, for every statement with hypotheses, a state and operands that
meet them together. -/

namespace Sys2Proof.Machine.Tests

/-- The state after reset, with a number in each register the spec leaves unspecified. -/
def quiet : State :=
  { State.reset with
    crcReg := 0#32, chk := { expected := ⟨0#8, 0#8, 0#8, 0#8⟩, received := ⟨0#8, 0#8, 0#8, 0#8⟩, valid := false },
    tmo := { State.reset.tmo with start := 0 } }

/-- A quiet block with an open receive session. -/
def receiving (chunks : List (List Byte)) (expected : Nat) : State :=
  { quiet with rx := { state := .accumulating, chunks := chunks, total := chunks.flatten.length, expected := expected } }

/-- A quiet block whose supervisor runs since time 0. -/
def supervising (t : TmoState) (r : RxState) : State :=
  { quiet with
    busy := true, tmo := { state := t, thresholdMs := 2000, mult := 1, attempt := 1, start := 0 },
    rx := { state := r, chunks := [[0#8]], total := 1, expected := 5 } }

/-- The state an instruction leads to, if it leads to one. -/
def after (i : Instr) (s : State) : Option State :=
  match exec i s with
  | .next t => some t
  | .fault _ => none
  | .refused _ => none

/-- The refusal an outcome is, if it is one. -/
def refusalOf (o : Outcome) : Option Refusal :=
  match o with
  | .next _ => none
  | .fault _ => none
  | .refused r => some r

/-- The answer an instruction leaves. -/
def answerOf (i : Instr) (s : State) : Option Answer := (after i s).map State.answer

/-! ### Well-formedness: one ill-formed term for each check, and its well-formed neighbour -/

theorem test_wf_read_trailer :
    Instr.wellFormed Config.standard (.readReq 0x1B#8 0x2A#8 0#24 2#24 ⟨0xC5#8, 0x51#8, 0xCF#8, 0x77#8⟩) = false ∧
    Instr.wellFormed Config.standard (.readReq 0x1B#8 0x2A#8 0#24 2#24 ⟨0xC5#8, 0x51#8, 0xCF#8, 0x76#8⟩) = true := by
  decide +kernel

/-- Each field of a write request that `30_encoding.md` R75 checks, one at a time. -/
theorem test_wf_write_fields :
    let good : Trailer := ⟨0x19#8, 0x94#8, 0x97#8, 0x59#8⟩
    Instr.wellFormed Config.standard (.writeReq 0x0F#8 0x1B#8 0x2A#8 0x7A1204#24 0x7A1204#24 [0xAB#8] good) = true ∧
    Instr.wellFormed Config.standard (.writeReq 0x0E#8 0x1B#8 0x2A#8 0x7A1204#24 0x7A1204#24 [0xAB#8] good) = false ∧
    Instr.wellFormed Config.standard (.writeReq 0x0F#8 0x1D#8 0x2A#8 0x7A1204#24 0x7A1204#24 [0xAB#8] good) = false ∧
    Instr.wellFormed Config.standard (.writeReq 0x0F#8 0x1B#8 0x2A#8 0x7A1204#24 0x7A1205#24 [0xAB#8]
      (crc32 (headerBytes 0x0F#8 0xDD#8 0x1B#8 0x2A#8 0x7A1204#24 0x7A1205#24 ++ [0xAB#8]))) = false ∧
    Instr.wellFormed Config.standard (.writeReq 0x0E#8 0x1B#8 0x2A#8 1#24 0#24 []
      (crc32 (headerBytes 0x0E#8 0xDD#8 0x1B#8 0x2A#8 1#24 0#24))) = false := by
  decide +kernel

theorem test_wf_read_response_without_data :
    Instr.wellFormed Config.standard (.readRsp 0#8 [] ⟨0#8, 0#8, 0#8, 0#8⟩) = false ∧
    Instr.wellFormed Config.standard (.readRsp 0#8 [1#8] ⟨0#8, 0#8, 0#8, 0#8⟩) = true := by decide

theorem test_wf_named_bank_as_other :
    Instr.wellFormed Config.standard (.buildRead 0 1 (.other 2) 0#8) = false ∧
    Instr.wellFormed Config.standard (.buildWrite 0 none (.other 2) 0#8) = false ∧
    Instr.wellFormed Config.standard (.txnSend (.read 1) 0 (.other 2) 0#8 0 true) = false ∧
    Instr.wellFormed Config.standard (.buildRead 0 1 (.other 3) 0#8) = true := by decide +kernel

theorem test_wf_address_domain :
    Instr.wellFormed Config.standard (.buildRead 4294967296 1 .cpu 0#8) = false ∧
    Instr.wellFormed Config.standard (.buildWrite 4294967296 none .cpu 0#8) = false ∧
    Instr.wellFormed Config.standard (.txnSend (.write none) 4294967296 .cpu 0#8 0 true) = false ∧
    Instr.wellFormed Config.standard (.buildRead 4294967295 1 .cpu 0#8) = true := by decide +kernel

theorem test_wf_length_domains :
    Instr.wellFormed Config.standard (.buildRead 0 4294967296 .cpu 0#8) = false ∧
    Instr.wellFormed Config.standard (.txnSend (.read 4294967296) 0 .cpu 0#8 0 true) = false ∧
    Instr.wellFormed Config.standard (.expectedLen false 4294967296) = false ∧
    Instr.wellFormed Config.standard (.rxReset 4294967296) = false ∧
    Instr.wellFormed Config.standard (.crcHash none (some 4294967296) none) = false ∧
    Instr.wellFormed Config.standard (.crcHash none none (some 4294967296)) = false ∧
    Instr.wellFormed Config.standard (.rxReset 4294967295) = true := by decide +kernel

theorem test_wf_checksum_length :
    Instr.wellFormed Config.standard (.chkValidate [] 3) = false ∧
    Instr.wellFormed Config.standard (.chkValidate [] 4) = true := by decide

/-! ### Decoding: a word written out for every constructor -/

theorem test_decode_read_req :
    decode Config.standard (.request [0x0E#8, 0xAA#8, 0x1C#8, 0x2B#8, 0x10#8, 0x00#8, 0x00#8, 0x0F#8, 0x01#8, 0x00#8,
      0x7B#8, 0xF6#8, 0x6D#8, 0x52#8]) =
    .ok (.readReq 0x1C#8 0x2B#8 0x000010#24 0x00010F#24 ⟨0x7B#8, 0xF6#8, 0x6D#8, 0x52#8⟩) := by decide

theorem test_decode_write_req :
    decode Config.standard (.request [0x10#8, 0xDD#8, 0x1C#8, 0x2C#8, 0xFF#8, 0xFE#8, 0xFD#8, 0x00#8, 0x00#8, 0x01#8,
      0x01#8, 0x02#8, 0x4D#8, 0xFD#8, 0x29#8, 0x89#8]) =
    .ok (.writeReq 0x10#8 0x1C#8 0x2C#8 0xFDFEFF#24 0x010000#24 [0x01#8, 0x02#8] ⟨0x4D#8, 0xFD#8, 0x29#8, 0x89#8⟩) := by
  decide

theorem test_decode_responses :
    decode Config.standard (.response [0x01#8, 0x02#8, 0x03#8, 0x04#8, 0x05#8, 0x06#8]) =
      .ok (.readRsp 0x01#8 [0x02#8] ⟨0x03#8, 0x04#8, 0x05#8, 0x06#8⟩) ∧
    decode Config.standard (.response [0x01#8, 0x02#8, 0x03#8, 0x04#8, 0x05#8]) =
      .ok (.writeAck 0x01#8 ⟨0x02#8, 0x03#8, 0x04#8, 0x05#8⟩) := by decide

theorem test_decode_select_1 : decode Config.standard (.op 0x1#4 { bytes := some [1#8], offset := some 0, count := none }) =
    .ok (.crcHash (some [1#8]) (some 0) none) := by decide +kernel

theorem test_decode_select_2 :
    decode Config.standard (.op 0x2#4 { startAddr := 5, length := 3, bank := 1, intention := 0x2A#8 }) =
      .ok (.buildRead 5 3 .eeprom 0x2A#8) ∧
    decode Config.standard (.op 0x2#4 { startAddr := 5, length := 3, bank := 7, intention := 0x2A#8 }) =
      .ok (.buildRead 5 3 (.other 7) 0x2A#8) := by decide +kernel

theorem test_decode_select_3 :
    decode Config.standard (.op 0x3#4 { startAddr := 5, data := some [9#8], bank := 2, intention := 0x2B#8 }) =
      .ok (.buildWrite 5 (some [9#8]) .cpu 0x2B#8) := by decide +kernel

theorem test_decode_select_4 : decode Config.standard (.op 0x4#4 { isWrite := true, length := 3 }) =
    .ok (.expectedLen true 3) := by decide +kernel

theorem test_decode_select_5 : decode Config.standard (.op 0x5#4 { expectedTotal := 8 }) = .ok (.rxReset 8) := by
  decide +kernel

theorem test_decode_select_6 : decode Config.standard (.op 0x6#4 { chunk := [1#8, 2#8] }) =
    .ok (.rxChunk [1#8, 2#8]) := by decide

theorem test_decode_select_7 :
    decode Config.standard (.op 0x7#4 { chunks := [[1#8], []], checksumLength := some 4 }) =
      .ok (.chkValidate [[1#8], []] 4) ∧
    decode Config.standard (.op 0x7#4 {}) = .ok (.chkValidate [] 4) := by decide

theorem test_decode_select_8 : decode Config.standard (.op 0x8#4 {}) = .ok .chkDiag := by decide

theorem test_decode_select_9 :
    decode Config.standard (.op 0x9#4
      { isWrite := true, startAddr := 4, data := some [1#8], length := 9, bank := 0, intention := 0x2C#8, now := 100,
        ready := true }) =
      .ok (.txnSend (.write (some [1#8])) 4 .sdCard 0x2C#8 100 true) ∧
    decode Config.standard (.op 0x9#4 { startAddr := 4, data := some [1#8], length := 9, bank := 1 }) =
      .ok (.txnSend (.read 9) 4 .eeprom 0#8 0 false) := by decide +kernel

theorem test_decode_select_A : decode Config.standard (.op 0xA#4 { now := 1900 }) = .ok (.tmoPoll 1900) := by decide

theorem test_decode_select_B : decode Config.standard (.op 0xB#4 { goOn := true }) = .ok (.tmoDecide true) := by decide

/-- What the decoder refuses, each by its name. -/
theorem test_decode_refusals :
    decode Config.standard (.op 0x0#4 {}) = .error (.reservedSelect 0x0#4) ∧
    decode Config.standard (.op 0xC#4 {}) = .error (.reservedSelect 0xC#4) ∧
    decode Config.standard (.request (List.replicate 13 0xAA#8)) = .error .requestTooShort ∧
    decode Config.standard (.request (0x0E#8 :: 0xAB#8 :: List.replicate 12 0#8)) = .error (.unknownCommand 0xAB#8) ∧
    decode Config.standard (.request (0x0F#8 :: 0xAA#8 :: List.replicate 13 0#8)) = .error .readRequestLength ∧
    decode Config.standard (.response (List.replicate 4 0#8)) = .error .responseTooShort ∧
    decode Config.standard (.op 0x2#4 { startAddr := 4294967296, length := 1 }) = .error .startAddrOutOfDomain ∧
    decode Config.standard (.op 0x4#4 { length := 4294967296 }) = .error .lengthOutOfDomain ∧
    decode Config.standard (.op 0x5#4 { expectedTotal := 4294967296 }) = .error .expectedTotalOutOfDomain ∧
    decode Config.standard (.op 0x1#4 { offset := some 4294967296 }) = .error .offsetOutOfDomain ∧
    decode Config.standard (.op 0x1#4 { count := some 4294967296 }) = .error .countOutOfDomain := by decide +kernel

/-- A table word is fetched and run (entry 29): a select, the first two bytes of a frame, and the row of no bits. -/
theorem test_table_words :
    decodeTableWord 8 0x8 = some .chkDiag ∧
    decodeTableWord 16 0x0EAA = some (.readReq 0#8 0#8 0#24 0#24 ⟨0#8, 0#8, 0#8, 0#8⟩) ∧
    decodeTableWord 8 0xDD = some (.writeReq 0#8 0#8 0#8 0#24 0#24 [0#8] ⟨0#8, 0#8, 0#8, 0#8⟩) ∧
    decodeTableWord 0 0 = some (.writeAck 0#8 ⟨0#8, 0#8, 0#8, 0#8⟩) ∧
    step (quiet.withFetchWord 8 0x8) = exec .chkDiag quiet :=
  ⟨by decide, by decide, by decide, by decide, rfl⟩

/-! ### One step each, by the vectors of the spec -/

/-- `95_test_vectors.md` 2.1, the register trace of SP's third vector. -/
theorem test_hash_register_trace :
    crcUpdate 0xFFFFFFFF#32 0x00#8 = 0x2DFD1072#32 ∧ crcUpdate 0x2DFD1072#32 0x01#8 = 0xC921DD96#32 ∧
    crcUpdate 0xC921DD96#32 0x02#8 = 0xF7AB7680#32 ∧
    (after (.crcHash (some [0#8, 1#8, 2#8]) none none) quiet).map State.crcReg = some 0xF7AB7680#32 := by decide +kernel

/-- `95_test_vectors.md` 2.2, `offset` and `count`. -/
theorem test_hash_ranges :
    let b : List Byte := [0xAA#8, 0x00#8, 0x01#8, 0x02#8, 0xBB#8]
    answerOf (.crcHash (some b) (some 1) (some 3)) quiet = some (.crc ⟨0x08#8, 0x54#8, 0x89#8, 0x7F#8⟩) ∧
    answerOf (.crcHash (some b) (some 5) none) quiet = some (.crc ⟨0#8, 0#8, 0#8, 0#8⟩) ∧
    answerOf (.crcHash (some b) (some 3) (some 3)) quiet = some (.error (.invalidArgument .range)) ∧
    answerOf (.crcHash (some b) (some 6) (some 0)) quiet = some (.error (.invalidArgument .range)) := by decide +kernel

/-- FR4, FR6: the range wraps at 2^24; a count of 2^24. -/
theorem test_build_read_wraps :
    answerOf (.buildRead 0xFFFFFF 2 .eeprom 0x2B#8) quiet = some (.frame [0x0E#8, 0xAA#8, 0x1B#8, 0x2B#8, 0xFF#8, 0xFF#8,
      0xFF#8, 0x00#8, 0x00#8, 0x00#8, 0x90#8, 0x07#8, 0x7A#8, 0x1D#8]) ∧
    answerOf (.buildRead 0 0x1000000 .eeprom 0x2A#8) quiet = some (.frame [0x0E#8, 0xAA#8, 0x1B#8, 0x2A#8, 0x00#8, 0x00#8,
      0x00#8, 0xFF#8, 0xFF#8, 0xFF#8, 0xC6#8, 0x6B#8, 0x3D#8, 0x0A#8]) := by decide +kernel

/-- FR5, FR12: bits above 23 are dropped; the length is checked before the bank. -/
theorem test_build_read_truncates :
    answerOf (.buildRead 0x12345678 1 .sdCard 0x2A#8) quiet = some (.frame [0x0E#8, 0xAA#8, 0x1A#8, 0x2A#8, 0x78#8, 0x56#8,
      0x34#8, 0x78#8, 0x56#8, 0x34#8, 0xB2#8, 0xA3#8, 0xF6#8, 0x38#8]) ∧
    answerOf (.buildRead 0 0 (.other 7) 0x2A#8) quiet = some (.error (.invalidArgument .zeroLength)) := by decide +kernel

/-- FW2. -/
theorem test_build_write_four_bytes :
    answerOf (.buildWrite 0x000100 (some [0xDE#8, 0xAD#8, 0xBE#8, 0xEF#8]) .sdCard 0x2B#8) quiet =
      some (.frame [0x12#8, 0xDD#8, 0x1A#8, 0x2B#8, 0x00#8, 0x01#8, 0x00#8, 0x03#8, 0x01#8, 0x00#8, 0xDE#8, 0xAD#8, 0xBE#8,
        0xEF#8, 0x4B#8, 0x2E#8, 0x5F#8, 0x2D#8]) := by decide +kernel

/-- FW7, FW10: the first refused size, and the bank before the size. -/
theorem test_build_write_too_large :
    answerOf (.buildWrite 0 (some (List.replicate 237 0#8)) .eeprom 0x2A#8) quiet =
      some (.error (.frameTooLarge 251 250)) ∧
    answerOf (.buildWrite 0 (some (List.replicate 237 0#8)) (.other 7) 0x2A#8) quiet =
      some (.error (.unknownBank 7)) := by decide +kernel

/-- The frame of SP's seventh vector presented by its fields stands in `TXF` (entry 6). -/
theorem test_read_req_row :
    (after (.readReq 0x1B#8 0x2A#8 0#24 2#24 ⟨0xC5#8, 0x51#8, 0xCF#8, 0x76#8⟩) quiet).map State.frameInTx =
      some [0x0E#8, 0xAA#8, 0x1B#8, 0x2A#8, 0x00#8, 0x00#8, 0x00#8, 0x02#8, 0x00#8, 0x00#8, 0xC5#8, 0x51#8, 0xCF#8,
        0x76#8] ∧
    refusalOf (exec (.readReq 0x1B#8 0x2A#8 0#24 2#24 ⟨0#8, 0#8, 0#8, 0#8⟩) quiet) = some .frameNeverEmitted := by decide +kernel

/-- FW5 presented by its fields; a bank byte that is no code (entries 6 and 8). -/
theorem test_write_req_row :
    (after (.writeReq 0x10#8 0x1C#8 0x2B#8 16#24 17#24 [1#8, 2#8] ⟨0x58#8, 0x1E#8, 0x2C#8, 0x43#8⟩) quiet).map
      (fun t => t.tx.len) = some 16 ∧
    answerOf (.writeReq 0x10#8 0x1D#8 0x2B#8 16#24 17#24 [1#8, 2#8] ⟨0x58#8, 0x1E#8, 0x2C#8, 0x43#8⟩) quiet =
      some (.error (.unknownBank 0x1D)) := by decide +kernel

/-- `95_test_vectors.md` 3.2, the expected lengths. -/
theorem test_expected_len :
    answerOf (.expectedLen false 13) quiet = some (.count 18) ∧ answerOf (.expectedLen true 236) quiet = some (.count 5) ∧
    answerOf (.expectedLen false 0) quiet = some (.count 5) := by decide +kernel

/-- RX10: a reset in mid-session discards what was received. -/
theorem test_reset_discards : (after (.rxReset 5) (receiving [[0x00#8, 0x11#8]] 8)).map State.rx =
    some { state := .accumulating, chunks := [], total := 0, expected := 5 } := by decide +kernel

/-- RX2 and RX4, the completing chunk with a good and a bad trailer. -/
theorem test_chunk_completes :
    (after (.rxChunk [0x02#8, 0xEF#8, 0x8D#8]) (receiving [[0x00#8, 0xD2#8]] 5)).map (fun t => (t.rx.state, t.events)) =
      some (.completed, [.progress [0x02#8, 0xEF#8, 0x8D#8], .completed 5, .checksumOk]) ∧
    (after (.rxChunk [0x02#8, 0xEF#8, 0x8C#8]) (receiving [[0x00#8, 0xD2#8]] 5)).map (fun t => (t.rx.state, t.events)) =
      some (.completed, [.progress [0x02#8, 0xEF#8, 0x8C#8], .completed 5,
        .error (.checksumMismatch ⟨0xD2#8, 0x02#8, 0xEF#8, 0x8D#8⟩ ⟨0xD2#8, 0x02#8, 0xEF#8, 0x8C#8⟩)]) := by
  decide +kernel

/-- RX3 and RX6: an overrun keeps every byte; a session of no bytes. -/
theorem test_chunk_corners :
    (after (.rxChunk [0xEF#8, 0x8D#8, 0xFF#8]) (receiving [[0x00#8, 0xD2#8, 0x02#8]] 5)).map
      (fun t => (t.rx.state, t.rx.total, t.chk.valid, t.events)) =
      some (.overrun, 6, false, [.progress [0xEF#8, 0x8D#8, 0xFF#8], .error (.receiveOverrun 6 5)]) ∧
    (after (.rxChunk []) (receiving [] 0)).map (fun t => (t.rx.state, t.chk.valid, t.events)) =
      some (.completed, false, [.progress [], .completed 0, .error (.rangeError 0 4)]) := by decide +kernel

/-- Program A's response in one chunk (entry 7). -/
theorem test_read_rsp_row :
    (after (.readRsp 0x00#8 [0x11#8, 0x22#8, 0x33#8] ⟨0x24#8, 0xC2#8, 0x31#8, 0x6D#8⟩) (receiving [] 8)).map
      (fun t => (t.rx.state, t.rx.total, t.events.length, t.chk.received)) =
      some (.completed, 8, 3, ⟨0x24#8, 0xC2#8, 0x31#8, 0x6D#8⟩) := by decide +kernel

/-- Program E's acknowledgement in one chunk (entry 7). -/
theorem test_write_ack_row :
    (after (.writeAck 0x00#8 ⟨0xD2#8, 0x02#8, 0xEF#8, 0x8D#8⟩) (receiving [] 5)).map State.events =
      some [.progress [0x00#8, 0xD2#8, 0x02#8, 0xEF#8, 0x8D#8], .completed 5, .checksumOk] := by decide +kernel

/-- CV2 and CV6: the cutting does not matter; a reversed trailer does not match. -/
theorem test_validate :
    answerOf (.chkValidate [[0#8, 0#8], [0#8, 0#8, 0x21#8], [0x44#8, 0xDF#8, 0x1C#8]] 4) quiet = some (.verdict true) ∧
    (after (.chkValidate [[0x00#8, 0x8D#8, 0xEF#8, 0x02#8, 0xD2#8]] 4) quiet).map (fun t => (t.answer, t.chk)) =
      some (.verdict false, { expected := ⟨0xD2#8, 0x02#8, 0xEF#8, 0x8D#8⟩,
                              received := ⟨0x8D#8, 0xEF#8, 0x02#8, 0xD2#8⟩, valid := true }) := by decide +kernel

/-- CV7 and CV9. -/
theorem test_validate_short :
    answerOf (.chkValidate [[0x21#8, 0x44#8, 0xDF#8, 0x1C#8]] 4) quiet = some (.error (.rangeError 4 4)) ∧
    answerOf (.chkValidate [[], []] 4) quiet = some (.error (.rangeError 0 4)) := by decide +kernel

/-- CV0: before any validation there are no values, whatever the registers hold. -/
theorem test_diag_after_reset : answerOf .chkDiag State.reset = some (.diag false none none) := rfl

/-- Program A, step 1. -/
theorem test_send_read :
    (after (.txnSend (.read 3) 0 .eeprom 0x2A#8 1000 true) quiet).map (fun t => (t.sent, t.busy, t.rx, t.tmo)) =
      some ([[0x0E#8, 0xAA#8, 0x1B#8, 0x2A#8, 0x00#8, 0x00#8, 0x00#8, 0x02#8, 0x00#8, 0x00#8, 0xC5#8, 0x51#8, 0xCF#8,
          0x76#8]], true, { state := .accumulating, chunks := [], total := 0, expected := 8 },
        { state := .waiting, thresholdMs := 2000, mult := 1, attempt := 1, start := 1000 }) := by decide +kernel

/-- Program D, steps 1 to 3 and 5: which error a send reports. -/
theorem test_send_errors :
    answerOf (.txnSend (.write (some [])) 0 (.other 7) 0x2A#8 0 true) quiet =
      some (.error (.invalidArgument .zeroLength)) ∧
    answerOf (.txnSend (.read 3) 0 (.other 7) 0x2A#8 0 true) quiet = some (.error (.unknownBank 7)) ∧
    answerOf (.txnSend (.read 3) 0 .eeprom 0x2A#8 0 false) quiet = some (.error .transportNotReady) ∧
    answerOf (.txnSend (.write (some (List.replicate 237 0#8))) 0 .sdCard 0x2C#8 0 true)
      (supervising .waiting .accumulating) = some (.error (.frameTooLarge 251 250)) := by decide +kernel

/-- Program B, steps 3 and 4. -/
theorem test_poll_threshold :
    (after (.tmoPoll 1999) (supervising .waiting .accumulating)).map (fun t => (t.tmo.state, t.events)) =
      some (.waiting, []) ∧
    (after (.tmoPoll 2000) (supervising .waiting .accumulating)).map (fun t => (t.tmo.state, t.busy, t.events)) =
      some (.awaitingDecision, true, [.decisionRequest 2000 1]) := by decide +kernel

/-- Program A, step 6, past the threshold, and program C, step 9. -/
theorem test_poll_ends :
    (after (.tmoPoll 4100) (supervising .waiting .completed)).map (fun t => (t.tmo.state, t.busy, t.events)) =
      some (.completed, false, [.supervisorCompleted 4100]) ∧
    (after (.tmoPoll 5100) (supervising .waiting .overrun)).map (fun t => (t.tmo.state, t.busy, t.events)) =
      some (.halted, false, []) := by decide +kernel

/-- Program B, step 6. -/
theorem test_decide_continue :
    (after (.tmoDecide true) (supervising .awaitingDecision .accumulating)).map State.tmo =
      some { state := .waiting, thresholdMs := 4000, mult := 2, attempt := 2, start := 0 } := by decide +kernel

/-- Program E, step 5: a stop aborts a completed session; and no decision is awaited after reset. -/
theorem test_decide_stop :
    (after (.tmoDecide false) (supervising .awaitingDecision .completed)).map
      (fun t => (t.tmo.state, t.busy, t.rx.state, t.events)) = some (.aborted, false, .completed, [.supervisorAborted]) ∧
    exec (.tmoDecide true) State.reset = .fault .noDecisionAwaited := ⟨by decide +kernel, rfl⟩

/-! ### The hypotheses of the statements can be met -/

theorem witness_StepRunsTheDecodedInstruction :
    ({ quiet with port := [.op 0x8#4 {}] } : State).port = .op 0x8#4 {} :: [] ∧
    decode quiet.cfg (.op 0x8#4 {}) = .ok .chkDiag ∧
    ({ quiet with port := [.response []] } : State).port = .response [] :: [] ∧
    decode quiet.cfg (.response []) = .error .responseTooShort := by decide

theorem witness_IdleBlockKeepsItsState : State.reset.port = [] := rfl

/-- An instruction of every row. -/
theorem witness_DecodeOfEncodeIsIdentity :
    ∀ i ∈ ([.readReq 0x1B#8 0x2A#8 0#24 2#24 ⟨0xC5#8, 0x51#8, 0xCF#8, 0x76#8⟩,
      .writeReq 0x0F#8 0x1B#8 0x2A#8 0x7A1204#24 0x7A1204#24 [0xAB#8] ⟨0x19#8, 0x94#8, 0x97#8, 0x59#8⟩,
      .readRsp 0#8 [1#8] ⟨0#8, 0#8, 0#8, 0#8⟩, .writeAck 0#8 ⟨0#8, 0#8, 0#8, 0#8⟩,
      .crcHash none (some 4294967295) none, .buildRead 4294967295 4294967295 (.other 3) 0#8,
      .buildWrite 0 none .sdCard 0#8, .expectedLen true 0, .rxReset 0, .rxChunk [], .chkValidate [] 4, .chkDiag,
      .txnSend (.write none) 0 .cpu 0#8 0 false, .tmoPoll 0, .tmoDecide false] : List Instr),
    i.wellFormed Config.standard = true := by decide +kernel

theorem witness_WireBytesSurviveDecoding :
    decode Config.standard (.request (0x0E#8 :: 0xAA#8 :: List.replicate 12 0#8)) =
      .ok (.readReq 0#8 0#8 0#24 0#24 ⟨0#8, 0#8, 0#8, 0#8⟩) ∧
    decode Config.standard (.request (0x00#8 :: 0xDD#8 :: List.replicate 12 0#8)) =
      .ok (.writeReq 0#8 0#8 0#8 0#24 0#24 [] ⟨0#8, 0#8, 0#8, 0#8⟩) ∧
    decode Config.standard (.response (List.replicate 5 0#8)) = .ok (.writeAck 0#8 ⟨0#8, 0#8, 0#8, 0#8⟩) ∧
    decode Config.standard (.response (List.replicate 6 0#8)) = .ok (.readRsp 0#8 [0#8] ⟨0#8, 0#8, 0#8, 0#8⟩) := by
  decide

theorem witness_ReservedSelectsAreRefused :
    (0x0#4).toNat = 0 ∧ 12 ≤ (0xC#4).toNat ∧ 12 ≤ (0xF#4).toNat ∧ ¬ 12 ≤ (0xB#4).toNat := by decide

/-- The whole of a buffer, nothing at its end, and an empty buffer. -/
theorem witness_HashAnswersTheReferenceCrc :
    let fits (b : List Byte) (o n : Option Nat) : Prop := o.getD 0 + n.getD (b.length - o.getD 0) ≤ b.length
    fits [1#8, 2#8] none none ∧ fits [1#8, 2#8] (some 2) (some 0) ∧ fits [] none none := by simp

theorem witness_HashErrors :
    let past (b : List Byte) (o n : Option Nat) : Prop := b.length < o.getD 0 + n.getD (b.length - o.getD 0)
    past [1#8, 2#8] (some 2) (some 1) ∧ past [1#8, 2#8] (some 3) none ∧ past [] none (some 1) := by simp

theorem witness_CrcIsAffine : ([1#8, 2#8] : List Byte).length = ([3#8, 4#8] : List Byte).length := rfl

theorem witness_OneBitChangesTheCrc : 1 < ([1#8, 2#8] : List Byte).length ∧ 7 < 8 := by decide

theorem witness_BuildReadMakesTheFrame :
    (BankSelector.sdCard, 0x1A#8) ∈ refBanks ∧ (BankSelector.eeprom, 0x1B#8) ∈ refBanks ∧
    (BankSelector.cpu, 0x1C#8) ∈ refBanks ∧ 1 ≤ 1 := by decide

/-- The shortest and the longest payload. -/
theorem witness_BuildWriteMakesTheFrame :
    (BankSelector.cpu, 0x1C#8) ∈ refBanks ∧ 1 ≤ (List.replicate 1 0#8).length ∧ (List.replicate 236 0#8).length ≤ 236 ∧
    1 ≤ (List.replicate 236 0#8).length := by decide +kernel

/-- The last three clauses: an unknown bank with a good length, and the first size refused with a known bank. -/
theorem witness_BuildErrorsInOrder :
    1 ≤ 1 ∧ 1 ≤ (List.replicate 237 0#8).length ∧ 237 ≤ (List.replicate 237 0#8).length ∧
    (BankSelector.other 3 = .other 3) ∧ ∀ k, BankSelector.cpu ≠ .other k := by
  refine ⟨by decide, by decide +kernel, by decide +kernel, rfl, fun k h => by cases h⟩

theorem witness_BuiltFramesAreWellFormed :
    (∃ t f, exec (.buildRead 0 1 .cpu 0#8) quiet = .next t ∧ t.answer = .frame f) ∧
    (∃ t f, exec (.buildWrite 0 (some [1#8]) .cpu 0#8) quiet = .next t ∧ t.answer = .frame f) :=
  ⟨⟨_, _, rfl, rfl⟩, ⟨_, _, rfl, rfl⟩⟩

theorem witness_OnlySendHandsBytesToTheTransport :
    ∃ t, exec (.txnSend (.read 3) 0 .eeprom 0x2A#8 0 true) quiet = .next t ∧ t.sent.length = 1 :=
  ⟨_, rfl, rfl⟩

/-- `READ_REQ` and `WRITE_REQ`. -/
theorem witness_RequestRowsPresentTheirFrame :
    (encode (.readReq 0x1B#8 0x2A#8 0#24 2#24 ⟨0xC5#8, 0x51#8, 0xCF#8, 0x76#8⟩) =
      .request [0x0E#8, 0xAA#8, 0x1B#8, 0x2A#8, 0x00#8, 0x00#8, 0x00#8, 0x02#8, 0x00#8, 0x00#8, 0xC5#8, 0x51#8, 0xCF#8,
        0x76#8] ∧
      isRequestFrame [0x0E#8, 0xAA#8, 0x1B#8, 0x2A#8, 0x00#8, 0x00#8, 0x00#8, 0x02#8, 0x00#8, 0x00#8, 0xC5#8, 0x51#8,
        0xCF#8, 0x76#8] = true) ∧
    (encode (.writeReq 0x0F#8 0x1B#8 0x2A#8 0x7A1204#24 0x7A1204#24 [0xAB#8] ⟨0x19#8, 0x94#8, 0x97#8, 0x59#8⟩) =
      .request [0x0F#8, 0xDD#8, 0x1B#8, 0x2A#8, 0x04#8, 0x12#8, 0x7A#8, 0x04#8, 0x12#8, 0x7A#8, 0xAB#8, 0x19#8, 0x94#8,
        0x97#8, 0x59#8] ∧
      isRequestFrame [0x0F#8, 0xDD#8, 0x1B#8, 0x2A#8, 0x04#8, 0x12#8, 0x7A#8, 0x04#8, 0x12#8, 0x7A#8, 0xAB#8, 0x19#8,
        0x94#8, 0x97#8, 0x59#8] = true) := by decide +kernel

/-- No payload, an unknown bank, 237 bytes of payload, and a known bank with a wrong trailer. -/
theorem witness_RequestRowsStopOtherFrames :
    let zero : Trailer := ⟨0#8, 0#8, 0#8, 0#8⟩
    let long : List Byte := List.replicate 237 0#8
    isRequestFrame (writeReqBytes 0x0E#8 0x1B#8 0#8 0#24 0#24 [] zero) = false ∧
    isRequestFrame (readReqBytes 0x1D#8 0#8 0#24 0#24 zero) = false ∧
    (isRequestFrame (writeReqBytes 0xFB#8 0x1B#8 0#8 0#24 236#24 long zero) = false ∧
      236 < (writeReqBytes 0xFB#8 0x1B#8 0#8 0#24 236#24 long zero).length - 14) ∧
    (isRequestFrame (readReqBytes 0x1B#8 0#8 0#24 0#24 zero) = false ∧
      (readReqBytes 0x1B#8 0#8 0#24 0#24 zero).length - 14 ≤ 236) := by decide +kernel

/-- `READ_RSP` and `WRITE_ACK`, an open session with a store of exactly the size, and no session. -/
theorem witness_ResponseRowsArriveAsOneChunk :
    encode (.readRsp 0#8 [1#8] ⟨2#8, 3#8, 4#8, 5#8⟩) = .response [0#8, 1#8, 2#8, 3#8, 4#8, 5#8] ∧
    encode (.writeAck 0#8 ⟨2#8, 3#8, 4#8, 5#8⟩) = .response [0#8, 2#8, 3#8, 4#8, 5#8] ∧
    (receiving [] 5).rx.state = .accumulating ∧ 0 + ([0#8, 2#8, 3#8, 4#8, 5#8] : List Byte).length ≤ 5 ∧
    quiet.rx.state ≠ .accumulating := by decide

/-- A store of exactly the size, and none. -/
theorem witness_ResetOpensAFreshSession :
    (∀ cap, ({ quiet with cfg := { rxbufCap := some 5 } } : State).cfg.rxbufCap = some cap → 5 ≤ cap) ∧
    (∀ cap, quiet.cfg.rxbufCap = some cap → 5 ≤ cap) := by
  refine ⟨fun cap h => ?_, fun cap h => ?_⟩
  · cases h; decide
  · cases h

/-- One above the capacity, for a reset, a read, a write, a chunk and the two response rows. -/
theorem witness_FiniteStoreRefuses :
    let s (cap : Nat) : State := { receiving [[1#8]] 9 with cfg := { rxbufCap := some cap } }
    ((s 4).cfg.rxbufCap = some 4 ∧ 4 < 5 ∧ (s 4).busy = false ∧ (BankSelector.cpu, 0x1C#8) ∈ refBanks) ∧
    ((s 5).cfg.rxbufCap = some 5 ∧ 1 ≤ 1 ∧ 5 < 1 + 1 + 4) ∧
    (1 ≤ ([0#8] : List Byte).length ∧ ([0#8] : List Byte).length ≤ 236 ∧ 4 < 5) ∧
    ((s 5).rx.state = .accumulating ∧ 5 < (s 5).rx.total + ([1#8, 2#8, 3#8, 4#8, 5#8] : List Byte).length) ∧
    encode (.writeAck 1#8 ⟨2#8, 3#8, 4#8, 5#8⟩) = .response [1#8, 2#8, 3#8, 4#8, 5#8] ∧
    ((s 6).rx.state = .accumulating ∧ 6 < (s 6).rx.total + ([1#8, 2#8, 3#8, 4#8, 5#8, 6#8] : List Byte).length) ∧
    encode (.readRsp 1#8 [2#8] ⟨3#8, 4#8, 5#8, 6#8⟩) = .response [1#8, 2#8, 3#8, 4#8, 5#8, 6#8] := by decide

theorem witness_ShortChunkAccumulates :
    (receiving [[1#8]] 5).rx.state = .accumulating ∧
    (receiving [[1#8]] 5).rx.total + ([2#8, 3#8, 4#8] : List Byte).length < (receiving [[1#8]] 5).rx.expected ∧
    (receiving [[1#8]] 5).cfg.rxbufCap = none := by decide

theorem witness_ExactChunkCompletesUnchecked :
    let s : State := { receiving [[1#8]] 5 with cfg := { rxCrcCheck := false, rxbufCap := some 5 } }
    s.rx.state = .accumulating ∧ s.rx.total + ([2#8, 3#8, 4#8, 5#8] : List Byte).length = s.rx.expected ∧
    s.cfg.rxbufCap = some 5 ∧ s.rx.expected ≤ 5 ∧ s.cfg.rxCrcCheck = false := by decide

/-- Four bytes in all, and five. -/
theorem witness_ExactChunkCompletesAndValidates :
    (let s := receiving [] 4
     s.rx.state = .accumulating ∧ s.rx.total + ([1#8, 2#8, 3#8, 4#8] : List Byte).length = s.rx.expected ∧
     s.cfg.rxbufCap = none ∧ s.cfg.rxCrcCheck = true ∧ (s.rx.chunks ++ [[1#8, 2#8, 3#8, 4#8]]).flatten.length ≤ 4) ∧
    (let s := receiving [[9#8]] 5
     s.rx.state = .accumulating ∧ s.rx.total + ([1#8, 2#8, 3#8, 4#8] : List Byte).length = s.rx.expected ∧
     s.cfg.rxCrcCheck = true ∧ (s.rx.chunks ++ [[1#8, 2#8, 3#8, 4#8]]).flatten = [9#8] ++ [1#8, 2#8, 3#8, 4#8]) := by
  decide

theorem witness_ExcessChunkOverruns :
    (receiving [[1#8]] 5).rx.state = .accumulating ∧
    (receiving [[1#8]] 5).rx.expected < (receiving [[1#8]] 5).rx.total + ([2#8, 3#8, 4#8, 5#8, 6#8] : List Byte).length ∧
    (receiving [[1#8]] 5).cfg.rxbufCap = none := by decide

theorem witness_ChunksAfterTheEndAreIgnored :
    (supervising .waiting .completed).rx.state = .completed ∧ (supervising .waiting .overrun).rx.state = .overrun ∧
    (receiving [] 1).rx.state = .accumulating ∧ (receiving [] 1).rx.total + ([7#8] : List Byte).length =
      (receiving [] 1).rx.expected ∧
    ∃ t, exec (.rxChunk [7#8]) (receiving [] 1) = .next t := ⟨by decide, by decide, by decide, by decide, _, rfl⟩

theorem witness_ChunksInIdleAreDropped : State.reset.rx.state = .idle := rfl

/-- Three cuttings of the same two bytes, one with an empty chunk. -/
theorem witness_ChunkingDoesNotMatter :
    let s := receiving [] 2
    let good (chunks : List (List Byte)) : Prop := chunks ≠ [] ∧ chunks.flatten = [1#8, 2#8] ∧
      ∀ j < chunks.length, 0 < j → (chunks.take j).flatten.length < 2
    s.cfg.rxbufCap = none ∧ s.rx = { state := .accumulating, chunks := [], total := 0, expected := 2 } ∧
    good [[1#8, 2#8]] ∧ good [[1#8], [2#8]] ∧ good [[], [1#8], [2#8]] := by decide

theorem witness_StraddlingChunkOverruns :
    let s := receiving [] 2
    let chunks : List (List Byte) := [[1#8], [2#8, 3#8]]
    s.cfg.rxbufCap = none ∧ s.rx = { state := .accumulating, chunks := [], total := 0, expected := 2 } ∧ chunks ≠ [] ∧
    (∀ j < chunks.length, 0 < j → (chunks.take j).flatten.length < 2) ∧ 2 < chunks.flatten.length := by decide

/-- A presented chunk in `Idle`, and nothing presented. -/
theorem witness_NoStepReturnsToIdle :
    (∃ t, step { quiet with port := [.op 0x6#4 { chunk := [1#8] }] } = .next t ∧ t.rx.state = .idle) ∧
    step State.reset = .next State.reset ∧ State.reset.rx.state = .idle := ⟨⟨_, rfl, rfl⟩, rfl, rfl⟩

theorem witness_EndedSessionsStayUntilReset :
    (∃ t, exec (.rxChunk [1#8]) (supervising .waiting .overrun) = .next t) ∧
    (supervising .waiting .overrun).ended = true ∧ (supervising .waiting .completed).ended = true :=
  ⟨⟨_, rfl⟩, by decide, by decide⟩

theorem witness_ValidateComparesAndKeepsThePair :
    ([[0x00#8, 0xD2#8], [0x02#8, 0xEF#8, 0x8D#8]] : List (List Byte)).flatten =
      [0x00#8] ++ [0xD2#8, 0x02#8, 0xEF#8, 0x8D#8] ∧ ([0x00#8] : List Byte) ≠ [] := by decide

theorem witness_ShortInputRaisesRangeError :
    ([] : List (List Byte)).flatten.length ≤ 4 ∧ ([[1#8], [2#8, 3#8, 4#8]] : List (List Byte)).flatten.length ≤ 4 ∧
    5 ≤ ([[1#8], [2#8, 3#8, 4#8], [5#8]] : List (List Byte)).flatten.length := by decide

theorem witness_OtherChecksumLengthsAreRefused : 3 ≠ 4 ∧ 5 ≠ 4 ∧ 0 ≠ 4 := by decide

theorem witness_DiagReturnsThePair :
    ({ quiet with chk := { quiet.chk with valid := true } } : State).chk.valid = true ∧ State.reset.chk.valid = false :=
  ⟨rfl, rfl⟩

theorem witness_BuiltFramesValidate :
    ∃ t f, exec (.buildRead 0 1 .cpu 0#8) quiet = .next t ∧ t.answer = .frame f ∧ [f.take 3, f.drop 3].flatten = f :=
  ⟨_, _, rfl, rfl, by simp⟩

/-- A changed bit in the payload and one in the trailer. -/
theorem witness_OneBitErrorsAreDetected :
    let message : List Byte := [0x00#8] ++ refTrailerBytes (refTrailer (refCrc [0x00#8]))
    ([0x00#8] : List Byte) ≠ [] ∧ [message].flatten = message ∧ 0 < message.length ∧ 4 < message.length ∧ 7 < 8 ∧
    [flipBit message 4 7].flatten = flipBit message 4 7 := by simp [refTrailerBytes]

/-- A read, the shortest write and the longest. -/
theorem witness_SendStartsATransaction :
    (BankSelector.eeprom, 0x1B#8) ∈ refBanks ∧ quiet.busy = false ∧ quiet.cfg.rxbufCap = none ∧
    (SendBody.read 1 = .read 1 ∧ 1 ≤ 1) ∧ 1 ≤ ([0#8] : List Byte).length ∧ (List.replicate 236 0#8).length ≤ 236 := by
  decide +kernel

/-- A build that raises, and one that makes a frame, with the guard taken and with the transport not ready. -/
theorem witness_SendErrorsInOrder :
    (∃ t, exec (.buildRead 0 0 .cpu 0#8) quiet = .next t ∧ t.answer = .error (.invalidArgument .zeroLength)) ∧
    (∃ t f, exec (.buildWrite 0 (some [1#8]) .cpu 0#8) (supervising .waiting .accumulating) = .next t ∧
      t.answer = .frame f ∧ (supervising .waiting .accumulating).busy = true) ∧
    (∃ t f, exec (.buildRead 0 1 .cpu 0#8) quiet = .next t ∧ t.answer = .frame f ∧ quiet.busy = false) :=
  ⟨⟨_, rfl, rfl⟩, ⟨_, _, rfl, rfl, rfl⟩, ⟨_, _, rfl, rfl, rfl⟩⟩

/-- A send that passes; both states in which the supervisor runs; an instruction that keeps the guard, and the three ways
it is freed. -/
theorem witness_SecondSendCannotPassTheGuard :
    (∃ t, exec (.txnSend (.read 1) 0 .cpu 0#8 0 true) quiet = .next t ∧ t.answer = .nothing) ∧
    ((supervising .waiting .accumulating).tmoInv ∧ (supervising .waiting .accumulating).tmo.state = .waiting) ∧
    ((supervising .awaitingDecision .completed).tmoInv ∧
      (supervising .awaitingDecision .completed).tmo.state = .awaitingDecision) ∧
    (∃ t, exec .chkDiag (supervising .waiting .accumulating) = .next t ∧ t.busy = true) ∧
    (∃ t, exec (.tmoPoll 0) (supervising .waiting .completed) = .next t ∧ t.busy = false ∧ t.tmo.state = .completed) ∧
    (∃ t, exec (.tmoPoll 0) (supervising .waiting .overrun) = .next t ∧ t.busy = false ∧ t.tmo.state = .halted) ∧
    (∃ t, exec (.tmoDecide false) (supervising .awaitingDecision .completed) = .next t ∧ t.busy = false ∧
      t.tmo.state = .aborted) :=
  ⟨⟨_, rfl, rfl⟩, ⟨by simp [State.tmoInv, supervising, quiet, State.reset, State.resetWith, Config.standard], rfl⟩,
    ⟨by simp [State.tmoInv, supervising, quiet, State.reset, State.resetWith, Config.standard], rfl⟩,
    ⟨_, rfl, rfl⟩, ⟨_, rfl, rfl, rfl⟩, ⟨_, rfl, rfl, rfl⟩, ⟨_, rfl, rfl, rfl⟩⟩

/-- Each clause, at the threshold and one below it, and with `now` at and before the start. -/
theorem witness_PollTurnsWhileWaiting :
    (supervising .waiting .completed).tmo.state = .waiting ∧ (supervising .waiting .completed).rx.state = .completed ∧
    (supervising .waiting .overrun).rx.state = .overrun ∧ (supervising .waiting .idle).rx.state = .idle ∧
    (supervising .waiting .accumulating).rx.state = .accumulating ∧
    (supervising .waiting .accumulating).tmo.thresholdMs ≤ 2000 - (supervising .waiting .accumulating).tmo.start ∧
    1999 - (supervising .waiting .accumulating).tmo.start < (supervising .waiting .accumulating).tmo.thresholdMs := by
  decide

theorem witness_PollOutsideWaitingHasNoEffect :
    State.reset.tmo.state ≠ .waiting ∧ (supervising .awaitingDecision .completed).tmo.state ≠ .waiting := by decide

theorem witness_ContinueDoublesTheThreshold :
    (supervising .awaitingDecision .accumulating).tmo.state = .awaitingDecision ∧
    (supervising .awaitingDecision .accumulating).tmo.thresholdMs =
      (supervising .awaitingDecision .accumulating).cfg.baseTimeoutMs *
      (supervising .awaitingDecision .accumulating).tmo.mult := by decide

theorem witness_StopAborts : (supervising .awaitingDecision .completed).tmo.state = .awaitingDecision := rfl

theorem witness_DecideHasNoStepElsewhere :
    State.reset.tmo.state ≠ .awaitingDecision ∧ (supervising .waiting .accumulating).tmo.state ≠ .awaitingDecision := by
  decide

/-- Two requests with a "continue" between them. -/
theorem witness_DecisionRequestsDouble :
    (supervising .waiting .accumulating).tmoInv ∧
    ∃ t u v, exec (.tmoPoll 2000) (supervising .waiting .accumulating) = .next t ∧
      t.events = (supervising .waiting .accumulating).events ++ [.decisionRequest 2000 1] ∧
      exec (.tmoDecide true) t = .next u ∧ exec (.tmoPoll 4000) u = .next v ∧
      v.events = u.events ++ [.decisionRequest 4000 2] :=
  ⟨by simp [State.tmoInv, supervising, quiet, State.reset, State.resetWith, Config.standard],
    _, _, _, rfl, rfl, rfl, rfl, rfl⟩

theorem witness_SuccessAndFailureTogether :
    let s := supervising .waiting .accumulating
    let chunk : List Byte := [0xD2#8, 0x02#8, 0xEF#8, 0x8C#8]
    let got : Trailer := ⟨0xD2#8, 0x02#8, 0xEF#8, 0x8C#8⟩
    s.cfg.rxCrcCheck = true ∧ s.rx.state = .accumulating ∧ s.tmo.state = .waiting ∧ s.tmo.start ≤ 100 ∧
    s.rx.total + chunk.length = s.rx.expected ∧ (s.rx.chunks ++ [chunk]).flatten = [0#8] ++ refTrailerBytes got ∧
    got ≠ refTrailer (refCrc [0#8]) ∧ ∃ t, exec (.rxChunk chunk) s = .next t :=
  ⟨rfl, rfl, rfl, by decide, rfl, rfl, by decide +kernel, _, rfl⟩

theorem witness_ErrorsArePrecise :
    ∃ t, exec (.txnSend (.read 0) 0 .cpu 0#8 0 true) quiet = .next t ∧ t.answer = .error (.invalidArgument .zeroLength) :=
  ⟨_, rfl, rfl⟩

theorem witness_ConfigurationIsNeverWritten :
    ∃ t, step { quiet with port := [.op 0x5#4 { expectedTotal := 5 }] } = .next t := ⟨_, rfl⟩

theorem witness_OutputsOnlyGrow :
    ∃ t, step { receiving [] 5 with port := [.op 0x6#4 { chunk := [1#8] }] } = .next t ∧ t.events ≠ [] :=
  ⟨_, rfl, by decide⟩

theorem witness_PureOperationsAreIdempotent :
    (∃ t, exec (.crcHash (some []) none none) quiet = .next t) ∧ (∃ t, exec (.buildRead 0 1 .cpu 0#8) quiet = .next t) ∧
    (∃ t, exec (.buildWrite 0 none .cpu 0#8) quiet = .next t) ∧ (∃ t, exec (.expectedLen true 1) quiet = .next t) ∧
    (∃ t, exec (.chkValidate [[1#8, 2#8, 3#8, 4#8, 5#8]] 4) quiet = .next t) ∧ ∃ t, exec .chkDiag quiet = .next t :=
  ⟨⟨_, rfl⟩, ⟨_, rfl⟩, ⟨_, rfl⟩, ⟨_, rfl⟩, ⟨_, rfl⟩, ⟨_, rfl⟩⟩

theorem witness_StepKeepsTheReceiveAccount :
    (receiving [[1#8]] 5).rxInv ∧ ∃ t, step { receiving [[1#8]] 5 with port := [.op 0x6#4 { chunk := [1#8] }] } = .next t :=
  ⟨by simp [State.rxInv, receiving], _, rfl⟩

theorem witness_StepKeepsTheSupervisorConsistent :
    (supervising .waiting .accumulating).tmoInv ∧
    ∃ t, step { supervising .waiting .accumulating with port := [.op 0xA#4 { now := 2000 }] } = .next t :=
  ⟨by simp [State.tmoInv, supervising, quiet, State.reset, State.resetWith, Config.standard], _, rfl⟩

theorem witness_StepKeepsTheTransmitBuffer :
    quiet.txInv ∧ ∃ t, step { quiet with port := [.op 0x2#4 { length := 1 }] } = .next t ∧ t.tx.len = 14 :=
  ⟨by simp [State.txInv, quiet, State.reset, State.resetWith, Memory.wf], _, rfl, rfl⟩

theorem witness_OnlyWellFormedRequestsAreSent :
    quiet.sentInv ∧ ∃ t, step { quiet with port := [.op 0x9#4 { length := 1, ready := true }] } = .next t :=
  ⟨by simp [State.sentInv, quiet, State.reset, State.resetWith], _, rfl⟩

end Sys2Proof.Machine.Tests
end

section
/-! PROOF. The selects R77 of `30_encoding.md` reserves. -/

namespace Sys2Proof.Proofs

/-- The operations of R76 carry the selects 1 to 11; whatever lies outside falls through to the refusal, before any
operand line is looked at. -/
theorem decodeOp_of_reservedSelect (c : Config) {select : BitVec 4} (x : OperandLines)
    (h : select.toNat = 0 ∨ 12 ≤ select.toNat) : decodeOp c select x = .error (.reservedSelect select) := by
  unfold decodeOp
  split
  iterate 11 · omega
  · rfl

/-- Settles O6: the decoder hands a select with its lines to `decodeOp`, which refuses a reserved one. -/
theorem reservedSelectsAreRefused : Obligations.ReservedSelectsAreRefused := by
  intro c select x h
  exact decodeOp_of_reservedSelect c x h

end Sys2Proof.Proofs
end

section
/-! PROOF. The reference vectors of the CRC (R91 of `41_crc32_engine.md`). -/

namespace Sys2Proof.Proofs
open Machine

/-- With both operands omitted the range is the whole buffer, so `CRC.HASH` answers the pure function of R99. -/
theorem exec_crcHash_whole (buffer : List Byte) (s : State) :
    exec (.crcHash (some buffer) none none) s =
      .next ({ s with crcReg := crcRun crcInit buffer }.answerWith (.crc (crc32 buffer))) := by
  have inRange : ¬ buffer.length < hashOffset none + hashCount buffer none none := by
    simp [hashOffset, hashCount]
  have whole : memRead buffer (hashOffset none) (hashCount buffer none none) = buffer := by
    simp [memRead, hashOffset, hashCount]
  change execCrcHash (some buffer) none none s = _
  simp only [execCrcHash, if_neg inRange, whole, crc32, crc32Word]

/-- R96: an absent buffer, whatever the range operands are. -/
theorem exec_crcHash_absent (offset count : Option Nat) (s : State) :
    exec (.crcHash none offset count) s = .next (s.raise (.invalidArgument .nullBuffer)) := rfl

/-- Settles O9: `CRC.HASH` of a whole buffer answers `crc32`, which is then evaluated on the vectors of R91; an absent
buffer raises by R96. -/
theorem referenceVectorsHold : Obligations.ReferenceVectorsHold := by
  intro s
  refine ⟨fun v hv => ⟨_, exec_crcHash_whole v.1 s, ?_⟩, _, exec_crcHash_absent none none s, rfl⟩
  have value : crc32 v.1 = v.2 := by
    revert v
    decide +kernel
  simp [value]

end Sys2Proof.Proofs
end

section
/-! PROOF. The expected length of a response (R122 of `42_frame_codec.md`). -/

namespace Sys2Proof.Proofs
open Machine

/-- A write is acknowledged with a status byte and a CRC, whatever was written. -/
@[simp] theorem expectedResponseLength_write (length : Nat) : expectedResponseLength true length = 5 := rfl

/-- A read is answered with a status byte, the payload and a CRC. -/
@[simp] theorem expectedResponseLength_read (length : Nat) :
    expectedResponseLength false length = 1 + length + 4 := rfl

/-- `FRAME.EXPECTED_LEN` writes its answer and nothing else, and raises no error. -/
theorem exec_expectedLen (isWrite : Bool) (length : Nat) (s : State) :
    exec (.expectedLen isWrite length) s =
      .next (s.answerWith (.count (expectedResponseLength isWrite length))) := rfl

/-- Settles O16: the answer is the pure function, which each kind of request evaluates; the select is the encoder's. -/
theorem expectedLengths : Obligations.ExpectedLengths := by
  intro s length
  refine ⟨?write, ?read, fun w => ?select⟩
  case write => rw [exec_expectedLen, expectedResponseLength_write, State.answerWith]
  case read => rw [exec_expectedLen, expectedResponseLength_read, State.answerWith]
  case select => rfl

end Sys2Proof.Proofs
end

section
/-! PROOF. The frames SP gives (R125 of `42_frame_codec.md`). -/

namespace Sys2Proof.Proofs
open Machine

/-- R120: a read build with a good count and a known bank presents and answers the frame of the layout. -/
theorem exec_buildRead_frame (s : State) (start : Nat) {count : Nat} {bank : BankSelector} {code : Byte} (x : Byte)
    (hcount : 1 ≤ count) (hbank : bankCode bank = some code) :
    exec (.buildRead start count bank x) s =
      .next ((s.present (refReadFrame start count code x)).answerWith (.frame (refReadFrame start count code x))) := by
  have built : buildReadFrame start count bank x = .ok (refReadFrame start count code x) :=
    buildReadFrame_ok.2 ⟨hcount, code, hbank, (readFrame_eq start count code x).symm⟩
  change execBuildRead start count bank x s = _
  rw [execBuildRead, built, State.endBuild]

/-- R121: a write build with a payload that fits and a known bank presents and answers the frame of the layout. -/
theorem exec_buildWrite_frame (s : State) (start : Nat) {data : List Byte} {bank : BankSelector} {code : Byte} (x : Byte)
    (hmin : 1 ≤ data.length) (hmax : data.length ≤ 236) (hbank : bankCode bank = some code) :
    exec (.buildWrite start (some data) bank x) s =
      .next ((s.present (refWriteFrame start data code x)).answerWith (.frame (refWriteFrame start data code x))) := by
  have built : buildWriteFrame start (some data) bank x = .ok (refWriteFrame start data code x) :=
    buildWriteFrame_ok.2 ⟨data, code, rfl, hmin, hmax, hbank, (writeFrame_eq start data code x).symm⟩
  change execBuildWrite start (some data) bank x s = _
  rw [execBuildWrite, built, State.endBuild]

/-- A read of no bytes is refused before anything else is looked at (R115). -/
theorem exec_buildRead_zero (s : State) (start : Nat) (bank : BankSelector) (x : Byte) :
    exec (.buildRead start 0 bank x) s = .next (s.raise (.invalidArgument .zeroLength)) := rfl

/-- A write of no bytes is refused before anything else is looked at (R115). -/
theorem exec_buildWrite_empty (s : State) (start : Nat) (bank : BankSelector) (x : Byte) :
    exec (.buildWrite start (some []) bank x) s = .next (s.raise (.invalidArgument .zeroLength)) := rfl

/-- Settles O18: in every state a build answers the frame of the layout, and a hash the CRC of its buffer, so each row of
R125 is left as the value of a pure function; the two requests of no bytes raise. -/
theorem frameVectorsHold : Obligations.FrameVectorsHold := by
  intro s
  refine ⟨⟨_, exec_buildRead_zero s 0 .eeprom 0x2A#8, rfl⟩,
    ⟨_, exec_buildRead_frame s 0 0x2A#8 (by decide) rfl, congrArg Answer.frame ?read3⟩,
    ⟨_, exec_buildRead_frame s 8000004 0x2A#8 (by decide) rfl, congrArg Answer.frame ?read13⟩,
    ⟨_, exec_buildWrite_frame s 8000004 0x2A#8 (by decide) (by decide) rfl, congrArg Answer.frame ?write1⟩,
    ⟨_, exec_buildWrite_empty s 8000004 .eeprom 0x2A#8, rfl⟩,
    ⟨_, exec_crcHash_whole _ s, congrArg Answer.crc ?crc3⟩,
    ⟨_, exec_crcHash_whole _ s, congrArg Answer.crc ?crc13⟩⟩
  case read3 | read13 | write1 | crc3 | crc13 => decide +kernel

end Sys2Proof.Proofs
end

section
/-! PROOF. Chunks after the end of a session (R143 of `43_receive_assembler.md`). -/

namespace Sys2Proof.Proofs
open Machine

/-- `RX.CHUNK` outside an open session writes its answer and nothing else. -/
theorem exec_rxChunk_dropped {s : State} (chunk : List Byte) (closed : s.rx.state ≠ .accumulating) :
    exec (.rxChunk chunk) s = .next { s with answer := .nothing } := by
  change receiveChunk chunk s = _
  rw [receiveChunk_dropped closed, State.answerWith]

/-- `RX.CHUNK` never has a result for its invoker: errors of the session are events. -/
theorem exec_rxChunk_answer {s t : State} {chunk : List Byte} (run : exec (.rxChunk chunk) s = .next t) :
    t.answer = .nothing := by
  obtain ⟨-, rfl⟩ | ⟨-, -, rfl⟩ := receiveChunk_next run
  · exact State.answerWith_answer s .nothing
  · exact State.answerWith_answer _ .nothing

/-- A chunk that ends in a next state and lands exactly on `RX_EXPECTED` completes the open session, validated or not. -/
theorem exec_rxChunk_exact_completes {s t : State} {chunk : List Byte} (opened : s.rx.state = .accumulating)
    (lands : s.rx.total + chunk.length = s.rx.expected) (run : exec (.rxChunk chunk) s = .next t) :
    t.rx.state = .completed := by
  obtain ⟨closed, -⟩ | ⟨-, -, rfl⟩ := receiveChunk_next run
  · exact absurd opened closed
  · simp [judgeSession_rx, lands]

/-- Settles O29: an ended session is not open, so its chunks are dropped. After an exact landing the session has ended
and the answer is `nothing` already, so the dropped chunk's one write changes nothing either. -/
theorem chunksAfterTheEndAreIgnored : Obligations.ChunksAfterTheEndAreIgnored := by
  refine ⟨fun s chunk ended => exec_rxChunk_dropped chunk ?closed, fun s t chunk excess opened lands run => ?landed⟩
  case closed =>
    rcases ended with completed | overrun
    · simp [completed]
    · simp [overrun]
  case landed =>
    have completed : t.rx.state = .completed := exec_rxChunk_exact_completes opened lands run
    have answered : t.answer = .nothing := exec_rxChunk_answer run
    refine ⟨completed, ?_⟩
    rw [exec_rxChunk_dropped excess (by simp [completed]), ← answered]

end Sys2Proof.Proofs
end

section
/-! PROOF. The least input of the validator (R161 of `44_checksum_validator.md`). -/

namespace Sys2Proof.Proofs
open Machine

/-- R161: a concatenation no longer than the trailer raises with both numbers, however it is cut into chunks. -/
theorem exec_chkValidate_short (s : State) {chunks : List (List Byte)} (short : (concat chunks).length ≤ 4) :
    exec (.chkValidate chunks 4) s = .next (s.raise (.rangeError (concat chunks).length 4)) := by
  have fixedLength : ¬ 4 ≠ crcLen := by decide
  change execChkValidate chunks 4 s = _
  rw [execChkValidate, if_neg fixedLength]
  exact if_pos short

/-- R160: with a byte before the trailer the pair of the concatenation is written and the verdict compares its halves. -/
theorem exec_chkValidate_verdict (s : State) {chunks : List (List Byte)} (long : 4 < (concat chunks).length) :
    exec (.chkValidate chunks 4) s =
      .next ((s.latchPair (pairOf (concat chunks))).answerWith
        (.verdict (trailersMatch (pairOf (concat chunks)).expected (pairOf (concat chunks)).received))) := by
  have fixedLength : ¬ 4 ≠ crcLen := by decide
  change execChkValidate chunks 4 s = _
  rw [execChkValidate, if_neg fixedLength]
  exact if_neg (Nat.not_le_of_lt long)

/-- Settles O36: the one branch of the validator is on the length of the concatenation; raising writes the answer alone. -/
theorem shortInputRaisesRangeError : Obligations.ShortInputRaisesRangeError := by
  intro s chunks
  refine ⟨fun short => ?raises, fun long => ?proceeds⟩
  case raises =>
    rw [exec_chkValidate_short s short, State.raise, State.answerWith, concat]
  case proceeds => exact ⟨_, _, exec_chkValidate_verdict s long, State.answerWith_answer _ _⟩

end Sys2Proof.Proofs
end

section
/-! PROOF. What an operation that ends with an error leaves (R210 of `60_exceptions.md`). -/

namespace Sys2Proof.Proofs
open Machine

/-- Of the ways an instruction can end, only raising answers an error: the others answer a result or nothing. -/
theorem eq_raise_of_effect_of_answer_error {s t : State} {i : Instr} {e : Error} (effect : Effect s i t)
    (failed : t.answer = .error e) : t = s.raise e := by
  cases effect with
  | raised i e' =>
    obtain rfl : e' = e := Answer.error.inj failed
    rfl
  | hashed | built | counted | opened | dropped | received | validated | diagnosed | sent | unpolled | polled
  | continued | aborted => simp at failed

/-- Settles O51: `Effect` lists every way an instruction can end; the error answered leaves only raising, which writes
the answer and nothing else. -/
theorem errorsArePrecise : Obligations.ErrorsArePrecise := by
  intro i s t e run failed
  exact eq_raise_of_effect_of_answer_error (exec_effect run) failed

end Sys2Proof.Proofs
end

section
/-! PROOF. What a step can do to each element of the state, and the invariants that follow: the configuration, the output
streams, the transmit buffer, the receive session and the supervisor. -/

namespace Sys2Proof.Proofs
open Machine

/-! ### From effects to steps -/

/-- A property that does not read the port and that every effect keeps is kept by every step. -/
theorem step_keeps {P : State → Prop} (port : ∀ u rest, P u → P { u with port := rest })
    (effect : ∀ u i v, Effect u i v → P u → P v) {s t : State} (run : step s = .next t) (h : P s) : P t := by
  obtain ⟨-, rfl⟩ | ⟨p, rest, i, -, -, run⟩ := step_cases run
  · exact h
  · exact effect _ i t (exec_effect run) (port s rest h)

/-! ### The configuration and the events -/

theorem effect_cfg {s t : State} {i : Instr} (effect : Effect s i t) : t.cfg = s.cfg := by
  cases effect <;> simp

theorem effect_events {s t : State} {i : Instr} (effect : Effect s i t) : ∃ l, t.events = s.events ++ l := by
  cases effect with
  | raised | hashed | built | counted | opened | dropped | validated | diagnosed | sent | unpolled | continued =>
    exact ⟨[], by simp⟩
  | received _ c =>
    obtain ⟨l, h⟩ := judgeSession_events ((s.appendChunk c).emit (.progress c))
    exact ⟨.progress c :: l, by simp [h]⟩
  | polled now =>
    obtain ⟨l, h⟩ := pollWaiting_events s now
    exact ⟨l, by simp [h]⟩
  | aborted => exact ⟨[.supervisorAborted], by simp⟩

/-- Settles O52: no effect writes the configuration. -/
theorem configurationIsNeverWritten : Obligations.ConfigurationIsNeverWritten := by
  intro s t run
  exact step_keeps (P := fun u => u.cfg = s.cfg) (fun u rest h => h) (fun u i v effect h => (effect_cfg effect).trans h)
    run rfl

/-! ### The frames sent and the transmit buffer -/

/-- What is built is a well-formed request. -/
theorem isRequestFrame_of_built {f : List Byte} (h : Built f) : isRequestFrame f = true := by
  obtain ⟨_, _, _, _, h⟩ := h
  exact isRequestFrame_built h

/-- What is built fits the transmit buffer. -/
theorem length_le_of_built {f : List Byte} (h : Built f) : f.length ≤ maxFrame := by
  obtain ⟨_, _, _, _, h⟩ := h
  exact (buildForSend_length h).2

/-- The transport takes the presented frame, and the buffer no longer counts it as one. -/
theorem transportSend_present (s : State) (f : List Byte) : (s.present f).transportSend =
    { s with sent := s.sent ++ [f], tx := { buf := Memory.writeBytes s.tx.buf 0 f, len := 0 } } := by
  rw [State.transportSend, State.frameInTx_present]
  rfl

/-- Only a send to a ready transport adds to the frames sent, and it adds one built frame. -/
theorem effect_sent {s t : State} {i : Instr} (effect : Effect s i t) :
    t.sent = s.sent ∨
    ((∃ body a b x now, i = .txnSend body a b x now true) ∧ ∃ f, Built f ∧ t.sent = s.sent ++ [f]) := by
  cases effect with
  | raised | hashed | built | counted | opened | dropped | received | validated | diagnosed | unpolled | polled | continued
  | aborted => exact .inl (by simp)
  | sent body a b x now f hf =>
    refine .inr ⟨⟨body, a, b, x, now, rfl⟩, f, ⟨body, a, b, x, hf⟩, ?_⟩
    simp [transportSend_present]

/-- The transmit buffer stays, or takes a built frame, which stands in it or has been sent. -/
theorem effect_tx {s t : State} {i : Instr} (effect : Effect s i t) :
    t.tx = s.tx ∨ ∃ f, Built f ∧ (t.tx = (s.present f).tx ∨ t.tx = { (s.present f).tx with len := 0 }) := by
  cases effect with
  | raised | hashed | counted | opened | dropped | received | validated | diagnosed | unpolled | polled | continued
  | aborted => exact .inl (by simp)
  | built _ f hf => exact .inr ⟨f, hf, .inl rfl⟩
  | sent body a b x now f hf => exact .inr ⟨f, ⟨body, a, b, x, hf⟩, .inr rfl⟩

/-- Settles O19: `effect_sent` for the instruction's effect. -/
theorem onlySendHandsBytesToTheTransport : Obligations.OnlySendHandsBytesToTheTransport := by
  intro i s t run
  obtain kept | ⟨send, f, -, added⟩ := effect_sent (exec_effect run)
  · exact .inl kept
  · exact .inr ⟨send, f, added⟩

/-- Settles O53: no effect takes an event or a sent frame away, and none reorders them. -/
theorem outputsOnlyGrow : Obligations.OutputsOnlyGrow := by
  intro s t run
  refine step_keeps (P := fun u => (∃ l, u.events = s.events ++ l) ∧ ∃ l, u.sent = s.sent ++ l) (fun u rest h => h)
    (fun u i v effect h => ?_) run ⟨⟨[], by simp⟩, [], by simp⟩
  obtain ⟨⟨events, hevents⟩, sent, hsent⟩ := h
  obtain ⟨l, hl⟩ := effect_events effect
  refine ⟨⟨events ++ l, by rw [hl, hevents, List.append_assoc]⟩, ?_⟩
  obtain kept | ⟨-, f, -, added⟩ := effect_sent effect
  · exact ⟨sent, kept.trans hsent⟩
  · exact ⟨sent ++ [f], by rw [added, hsent, List.append_assoc]⟩

/-- Settles O58: the one frame an effect can add was built, and what is built is a well-formed request. -/
theorem onlyWellFormedRequestsAreSent : Obligations.OnlyWellFormedRequestsAreSent := by
  intro s t inv run
  refine step_keeps (P := State.sentInv) (fun u rest h => h) (fun u i v effect h => ?_) run inv
  obtain kept | ⟨-, f, built, added⟩ := effect_sent effect
  · rwa [State.sentInv, kept]
  · rw [State.sentInv, added]
    intro g hg
    obtain old | new := List.mem_append.1 hg
    · exact h g old
    · rw [List.mem_singleton.1 new]
      exact isRequestFrame_of_built built

/-- An effect keeps `TXF` canonical and the frame in it, if there is one, well formed. -/
theorem effect_keeps_txInv {s t : State} {i : Instr} (effect : Effect s i t) (inv : s.txInv) : t.txInv := by
  obtain ⟨canonical, frame⟩ := inv
  obtain kept | ⟨f, built, stands | taken⟩ := effect_tx effect
  · rw [State.txInv, State.frameInTx_congr kept, kept]
    exact ⟨canonical, frame⟩
  · rw [State.txInv, State.frameInTx_congr stands, State.frameInTx_present, stands]
    exact ⟨s.present_wf f (length_le_of_built built) canonical, .inr ⟨rfl, isRequestFrame_of_built built⟩⟩
  · rw [State.txInv, taken]
    exact ⟨s.present_wf f (length_le_of_built built) canonical, .inl rfl⟩

/-- Settles O57: by `effect_keeps_txInv`. -/
theorem stepKeepsTheTransmitBuffer : Obligations.StepKeepsTheTransmitBuffer := by
  intro s t inv run
  exact step_keeps (P := State.txInv) (fun u rest h => h) (fun u i v => effect_keeps_txInv) run inv

/-! ### The receive session -/

/-- The session right after `RX.RESET` (R140 of `43_receive_assembler.md`). -/
def freshSession (expected : Nat) : ReceiveSession :=
  { state := .accumulating, chunks := [], total := 0, expected := expected }

/-- A session with one more chunk, judged (R142 of `43_receive_assembler.md`). -/
def sessionAfter (r : ReceiveSession) (chunk : List Byte) : ReceiveSession :=
  { state := if r.total + chunk.length = r.expected then .completed
      else if r.expected < r.total + chunk.length then .overrun else r.state
    chunks := r.chunks ++ [chunk], total := r.total + chunk.length, expected := r.expected }

/-- The ways an instruction can change the receive session. -/
inductive SessionChange (s t : State) (i : Instr) : Prop where
  | kept (rx : t.rx = s.rx)
  | reset (e : Nat) (instr : i = .rxReset e) (rx : t.rx = freshSession e)
  | sent (body : SendBody) (a : Nat) (b : BankSelector) (x : Byte) (now : Nat) (instr : i = .txnSend body a b x now true)
      (rx : t.rx = freshSession (expectedOfBody body))
  | received (chunk : List Byte) (opened : s.rx.state = .accumulating) (rx : t.rx = sessionAfter s.rx chunk)

theorem effect_rx {s t : State} {i : Instr} (effect : Effect s i t) : SessionChange s t i := by
  cases effect with
  | raised | hashed | built | counted | dropped | validated | diagnosed | unpolled | polled | continued | aborted =>
    exact .kept (by simp)
  | opened e => exact .reset e rfl rfl
  | received _ chunk opened => exact .received chunk opened (judgeSession_rx ((s.appendChunk chunk).emit (.progress chunk)))
  | sent body a b x now => exact .sent body a b x now rfl rfl

/-- `ENDED` is 0 while a session accumulates. -/
theorem not_accumulating_of_ended {s : State} (ended : s.ended = true) : s.rx.state ≠ .accumulating := by
  intro opened
  simp [State.ended, opened] at ended

/-- Settles O34: of the changes of a session the two openings are named, and a chunk is received only where `ENDED` = 0. -/
theorem endedSessionsStayUntilReset : Obligations.EndedSessionsStayUntilReset := by
  intro i s t run ended
  cases effect_rx (exec_effect run) with
  | kept rx => exact .inl rx
  | reset e instr => exact .inr (.inl ⟨e, instr⟩)
  | sent body a b x now instr => exact .inr (.inr ⟨body, a, b, x, now, instr⟩)
  | received _ opened => exact absurd opened (not_accumulating_of_ended ended)

/-- An accumulating session goes on or ends, but never becomes idle. -/
theorem sessionAfter_state_ne_idle {r : ReceiveSession} (chunk : List Byte) (opened : r.state = .accumulating) :
    (sessionAfter r chunk).state ≠ .idle := by
  unfold sessionAfter
  dsimp only
  split_ifs
  · simp
  · simp
  · simp [opened]

/-- Every change of the session leaves `RX_STATE` other than `Idle`. -/
theorem rx_kept_of_idle {s t : State} {i : Instr} (effect : Effect s i t) (idle : t.rx.state = .idle) : t.rx = s.rx := by
  cases effect_rx effect with
  | kept rx => exact rx
  | reset _ _ rx | sent _ _ _ _ _ _ rx => simp [rx, freshSession] at idle
  | received chunk opened rx => exact absurd (rx ▸ idle) (sessionAfter_state_ne_idle chunk opened)

/-- Settles O33: by `rx_kept_of_idle`, a session that ends idle has not changed. -/
theorem noStepReturnsToIdle : Obligations.NoStepReturnsToIdle := by
  intro s t run idle
  have kept : t.rx.state = .idle → t.rx = s.rx :=
    step_keeps (P := fun u => u.rx.state = .idle → u.rx = s.rx) (fun u rest h => h)
      (fun u i v effect h idle => by
        have rx := rx_kept_of_idle effect idle
        exact rx.trans (h (rx ▸ idle)))
      run (fun _ => rfl)
  exact ⟨kept idle ▸ idle, kept idle⟩

/-- A fresh session is consistent: it is below what it expects, or expects nothing. -/
theorem rxInv_of_freshSession {t : State} {e : Nat} (rx : t.rx = freshSession e) : t.rxInv := by
  rw [State.rxInv, rx]
  refine ⟨rfl, ?_⟩
  obtain rfl | pos := Nat.eq_zero_or_pos e
  · exact .inr ⟨rfl, rfl⟩
  · exact .inl pos

/-- A counted chunk keeps the account, and the judgement compares the total with the expected one. -/
theorem rxInv_of_sessionAfter {s t : State} {chunk : List Byte} (inv : s.rxInv) (opened : s.rx.state = .accumulating)
    (rx : t.rx = sessionAfter s.rx chunk) : t.rxInv := by
  obtain ⟨account, -⟩ := inv
  rw [State.rxInv, rx]
  refine ⟨by simp [sessionAfter, account], ?_⟩
  by_cases lands : s.rx.total + chunk.length = s.rx.expected
  · simp [sessionAfter, lands]
  · by_cases exceeds : s.rx.expected < s.rx.total + chunk.length
    · simp [sessionAfter, lands, exceeds]
    · simp [sessionAfter, lands, exceeds, opened]
      omega

theorem effect_keeps_rxInv {s t : State} {i : Instr} (effect : Effect s i t) (inv : s.rxInv) : t.rxInv := by
  cases effect_rx effect with
  | kept rx => rwa [State.rxInv, rx]
  | reset _ _ rx | sent _ _ _ _ _ _ rx => exact rxInv_of_freshSession rx
  | received _ opened rx => exact rxInv_of_sessionAfter inv opened rx

/-- Settles O55: by `effect_keeps_rxInv`. -/
theorem stepKeepsTheReceiveAccount : Obligations.StepKeepsTheReceiveAccount := by
  intro s t inv run
  exact step_keeps (P := State.rxInv) (fun u rest h => h) (fun u i v => effect_keeps_rxInv) run inv

/-! ### The supervisor -/

/-- The ways an instruction can change `BUSY` and the timeout state (R176, R181, R183 of
`45_session_and_timeout.md`). -/
inductive SupervisorChange (s t : State) (i : Instr) : Prop where
  | kept (busy : t.busy = s.busy) (tmo : t.tmo = s.tmo)
  | started (now : Nat) (free : s.busy = false) (busy : t.busy = true)
      (tmo : t.tmo = { state := .waiting, thresholdMs := s.cfg.baseTimeoutMs, mult := 1, attempt := 1, start := now })
  | ended (now : Nat) (instr : i = .tmoPoll now) (state : TmoState) (final : state = .completed ∨ state = .halted)
      (busy : t.busy = false) (tmo : t.tmo = { s.tmo with state := state })
  | asked (waiting : s.tmo.state = .waiting) (busy : t.busy = s.busy)
      (tmo : t.tmo = { s.tmo with state := .awaitingDecision })
  | continued (awaiting : s.tmo.state = .awaitingDecision) (busy : t.busy = s.busy)
      (tmo : t.tmo = { state := .waiting, thresholdMs := s.cfg.baseTimeoutMs * (s.tmo.mult * 2), mult := s.tmo.mult * 2,
                       attempt := s.tmo.attempt + 1, start := s.tmo.start })
  | aborted (instr : i = .tmoDecide false) (busy : t.busy = false) (tmo : t.tmo = { s.tmo with state := .aborted })

theorem effect_supervisor {s t : State} {i : Instr} (effect : Effect s i t) : SupervisorChange s t i := by
  cases effect with
  | raised | hashed | built | counted | opened | dropped | received | validated | diagnosed | unpolled =>
    exact .kept (by simp) (by simp)
  | sent body a b x now f hf free => exact .started now free rfl rfl
  | polled now waiting =>
    obtain ⟨-, h⟩ | ⟨-, h⟩ | ⟨-, -, h⟩ | ⟨-, -, h⟩ := pollWaiting_cases s now
    · exact .ended now rfl .completed (.inl rfl) (by simp [h]) (by simp [h])
    · exact .ended now rfl .halted (.inr rfl) (by simp [h]) (by simp [h])
    · exact .asked waiting (by simp [h]) (by simp [h])
    · exact .kept (by simp [h]) (by simp [h])
  | continued awaiting => exact .continued awaiting rfl rfl
  | aborted awaiting => exact .aborted rfl rfl rfl

/-- The invariant reads the supervisor through `BUSY`, the timeout state and the base alone. -/
theorem effect_keeps_tmoInv {s t : State} {i : Instr} (effect : Effect s i t) (inv : s.tmoInv) : t.tmoInv := by
  obtain ⟨guard, threshold, counted, doubled⟩ := inv
  rw [State.tmoInv, effect_cfg effect]
  cases effect_supervisor effect with
  | kept busy tmo => rw [busy, tmo]; exact ⟨guard, threshold, counted, doubled⟩
  | started now free busy tmo => simp [busy, tmo]
  | ended now instr state final busy tmo =>
    rw [busy, tmo]
    refine ⟨?_, threshold, counted, doubled⟩
    obtain rfl | rfl := final <;> simp
  | asked waiting busy tmo =>
    rw [busy, tmo]
    exact ⟨iff_of_true (guard.2 (.inl waiting)) (.inr rfl), threshold, counted, doubled⟩
  | continued awaiting busy tmo =>
    rw [busy, tmo]
    refine ⟨iff_of_true (guard.2 (.inr awaiting)) (.inl rfl), rfl, Nat.le_add_left 1 _, ?_⟩
    calc s.tmo.mult * 2 = 2 ^ (s.tmo.attempt - 1) * 2 := by rw [doubled]
      _ = 2 ^ (s.tmo.attempt - 1 + 1) := (Nat.pow_succ ..).symm
      _ = 2 ^ (s.tmo.attempt + 1 - 1) := by rw [Nat.sub_add_cancel counted, Nat.add_sub_cancel]
  | aborted instr busy tmo =>
    rw [busy, tmo]
    exact ⟨by simp, threshold, counted, doubled⟩

/-- Settles O56: by `effect_keeps_tmoInv`. -/
theorem stepKeepsTheSupervisorConsistent : Obligations.StepKeepsTheSupervisorConsistent := by
  intro s t inv run
  exact step_keeps (P := State.tmoInv) (fun u rest h => h) (fun u i v => effect_keeps_tmoInv) run inv

/-! ### Reset -/

/-- Settles O59: after reset nothing has been received or sent, `TXF` holds no frame, and the supervisor is halted with
the base as its threshold. -/
theorem resetMeetsTheInvariants : Obligations.ResetMeetsTheInvariants := by
  intro c
  refine ⟨?rx, ?tmo, ?tx, ?sent⟩
  case rx => exact ⟨rfl, rfl, rfl⟩
  case tmo => simp [State.tmoInv, State.resetWith]
  case tx => exact ⟨Memory.reset_wf c, .inl rfl⟩
  case sent => exact fun f hf => absurd hf List.not_mem_nil

/-- Settles O60: each value is the one `State.resetWith` writes, at the defaults of `Config`. -/
theorem resetLeavesTheStatedValues : Obligations.ResetLeavesTheStatedValues :=
  ⟨rfl, rfl, rfl, rfl, rfl, rfl, rfl, rfl, rfl, rfl⟩

/-! ### The port -/

/-- Settles O1: the two outcomes of the decoder are the two branches of a step with something presented. -/
theorem stepRunsTheDecodedInstruction : Obligations.StepRunsTheDecodedInstruction := by
  intro s p rest presented
  refine ⟨fun i decoded => ?_, fun why refused => ?_⟩
  · simp only [step, presented, decoded]
  · simp only [step, presented, refused]

/-- Settles O2: with nothing presented a step takes its first branch. -/
theorem idleBlockKeepsItsState : Obligations.IdleBlockKeepsItsState := by
  intro s idle
  simp only [step, idle]

end Sys2Proof.Proofs
end

section
/-! PROOF. The decoder and the encoder undo each other (sections 1, 2 and 4 of `30_encoding.md`). -/

namespace Sys2Proof.Proofs

/-! ### The wire formats -/

/-- R61: a frame written out from its fields is read field by field, and the row is found by command and length byte. -/
theorem decodeRequest_fields (length command bank x : Byte) (lo hi : Addr24) (payload : List Byte) (crc : Trailer) :
    decodeRequest (headerBytes length command bank x lo hi ++ (payload ++ trailerBytes crc)) =
      if command = cmdRead then
        if length = 0x0E#8 ∧ payload = [] then .ok (.readReq bank x lo hi crc) else .error .readRequestLength
      else if command = cmdWrite then .ok (.writeReq length bank x lo hi payload crc)
      else .error (.unknownCommand command) := by
  obtain ⟨covered, trailer⟩ := append_trailer_split payload crc
  have longEnough : ¬ (payload ++ trailerBytes crc).length < crcLen := by simp
  simp [headerBytes, addr3, decodeRequest, covered, trailer, -List.length_append, longEnough]

/-- R71: a response written out from its fields is an acknowledgement exactly where it has no data. -/
theorem decodeResponse_fields (status : Byte) (data : List Byte) (crc : Trailer) :
    decodeResponse (responseBytes status data crc) =
      if data = [] then .ok (.writeAck status crc) else .ok (.readRsp status data crc) := by
  obtain ⟨covered, trailer⟩ := append_trailer_split data crc
  have longEnough : ¬ (data ++ trailerBytes crc).length < crcLen := by simp
  simp [responseBytes, decodeResponse, covered, trailer, -List.length_append, longEnough]

/-- Any bytes long enough for a trailer end in one. -/
theorem exists_trailer {rest : List Byte} (h : crcLen ≤ rest.length) : ∃ l crc, rest = l ++ trailerBytes crc := by
  refine ⟨rest.take (rest.length - crcLen), trailerOfBytes (rest.drop (rest.length - crcLen)), ?_⟩
  rw [trailerBytes_trailerOfBytes _ (by rw [List.length_drop, Nat.sub_sub_self h]), List.take_append_drop]

/-- Header bytes are the header of the fields they make. -/
theorem headerBytes_of_bytes (length command bank x l0 l1 l2 h0 h1 h2 : Byte) :
    headerBytes length command bank x (addrOfBytes l0 l1 l2) (addrOfBytes h0 h1 h2) =
      [length, command, bank, x, l0, l1, l2, h0, h1, h2] := by
  rw [headerBytes, addr3_addrOfBytes, addr3_addrOfBytes]
  rfl

/-- What the decoder accepts as a request is the fields of R61 in order. -/
theorem exists_fields_of_decodeRequest {f : List Byte} {i : Instr} (decoded : decodeRequest f = .ok i) :
    ∃ length command bank x lo hi payload crc,
      f = headerBytes length command bank x lo hi ++ (payload ++ trailerBytes crc) := by
  unfold decodeRequest at decoded
  split at decoded
  · next length command bank x l0 l1 l2 h0 h1 h2 rest =>
    by_cases short : rest.length < crcLen
    · simp [short] at decoded
    · obtain ⟨payload, crc, rfl⟩ := exists_trailer (Nat.le_of_not_lt short)
      exact ⟨length, command, bank, x, addrOfBytes l0 l1 l2, addrOfBytes h0 h1 h2, payload, crc,
        by rw [headerBytes_of_bytes]; rfl⟩
  · cases decoded

/-- What the decoder accepts as a response is the fields of R71 in order. -/
theorem exists_fields_of_decodeResponse {bytes : List Byte} {i : Instr} (decoded : decodeResponse bytes = .ok i) :
    ∃ status data crc, bytes = responseBytes status data crc := by
  unfold decodeResponse at decoded
  split at decoded
  · next status rest =>
    by_cases short : rest.length < crcLen
    · simp [short] at decoded
    · obtain ⟨data, crc, rfl⟩ := exists_trailer (Nat.le_of_not_lt short)
      exact ⟨status, data, crc, rfl⟩
  · cases decoded

/-- A request that decodes is what the encoder presents for its instruction. -/
theorem encode_of_decodeRequest {f : List Byte} {i : Instr} (decoded : decodeRequest f = .ok i) :
    encode i = .request f := by
  obtain ⟨length, command, bank, x, lo, hi, payload, crc, rfl⟩ := exists_fields_of_decodeRequest decoded
  rw [decodeRequest_fields] at decoded
  split_ifs at decoded with read shape write
  · cases decoded
    rw [read, shape.1, shape.2]
    rfl
  · cases decoded
    rw [write, ← List.append_assoc]
    rfl

/-- A response that decodes is what the encoder presents for its instruction. -/
theorem encode_of_decodeResponse {bytes : List Byte} {i : Instr} (decoded : decodeResponse bytes = .ok i) :
    encode i = .response bytes := by
  obtain ⟨status, data, crc, rfl⟩ := exists_fields_of_decodeResponse decoded
  rw [decodeResponse_fields] at decoded
  split_ifs at decoded with ack
  · cases decoded
    rw [ack]
    rfl
  · cases decoded
    rfl

/-- Settles O4: the decoder reads the fields the bytes are made of, and the encoder writes them back in the same order. -/
theorem wireBytesSurviveDecoding : Obligations.WireBytesSurviveDecoding := by
  intro c bytes i
  exact ⟨encode_of_decodeRequest, encode_of_decodeResponse⟩

/-! ### Decoding what is encoded -/

/-- A well-formed bank is reached through its index, so the operands in their domains are all taken back. -/
theorem decode_encode_buildRead {c : Config} {start count : Nat} {bank : BankSelector} (x : Byte)
    (addr : c.addrInDomain start = true) (len : c.lenInDomain count = true) (known : bank.wellFormed = true) :
    decode c (encode (.buildRead start count bank x)) = .ok (.buildRead start count bank x) := by
  simp [decode, encode, decodeOp, addr, len, bankOfIndex_indexOfBank known]

theorem decode_encode_buildWrite {c : Config} {start : Nat} {bank : BankSelector} (data : Option (List Byte)) (x : Byte)
    (addr : c.addrInDomain start = true) (known : bank.wellFormed = true) :
    decode c (encode (.buildWrite start data bank x)) = .ok (.buildWrite start data bank x) := by
  simp [decode, encode, decodeOp, addr, bankOfIndex_indexOfBank known]

/-- `isWrite` says which of the two lines the body is read from. -/
theorem decode_encode_txnSend {c : Config} {body : SendBody} {start : Nat} {bank : BankSelector} (x : Byte) (now : Nat)
    (ready : Bool) (dom : c.bodyInDomain body = true) (addr : c.addrInDomain start = true)
    (known : bank.wellFormed = true) :
    decode c (encode (.txnSend body start bank x now ready)) = .ok (.txnSend body start bank x now ready) := by
  cases body with
  | read count => simp [decode, encode, decodeOp, bodyOfLines, dom, addr, bankOfIndex_indexOfBank known]
  | write data => simp [decode, encode, decodeOp, bodyOfLines, dom, addr, bankOfIndex_indexOfBank known]

/-- Settles O3: the wire rows are read field by field, whatever their fields; an operation's select leads back to its
arm of the decoder, whose domain checks are the conjuncts of well-formedness. -/
theorem decodeOfEncodeIsIdentity : Obligations.DecodeOfEncodeIsIdentity := by
  intro c i wf
  cases i with
  | readReq bank x lo hi crc => exact decodeRequest_fields 0x0E#8 cmdRead bank x lo hi [] crc
  | writeReq length bank x lo hi payload crc =>
    rw [encode, decode, writeReqBytes, List.append_assoc, decodeRequest_fields, if_neg (by decide), if_pos rfl]
  | readRsp status data crc =>
    have hasData : data ≠ [] := List.length_pos_iff.1 (of_decide_eq_true wf)
    rw [encode, decode, decodeResponse_fields, if_neg hasData]
  | writeAck status crc => exact decodeResponse_fields status [] crc
  | crcHash bytes offset count =>
    obtain ⟨hoffset, hcount⟩ := (Bool.and_eq_true ..).mp wf
    simp [decode, encode, decodeOp, hoffset, hcount]
  | buildRead start count bank x =>
    simp only [Instr.wellFormed, Bool.and_eq_true] at wf
    obtain ⟨⟨addr, len⟩, known⟩ := wf
    exact decode_encode_buildRead x addr len known
  | buildWrite start data bank x =>
    obtain ⟨addr, known⟩ := (Bool.and_eq_true ..).mp wf
    exact decode_encode_buildWrite data x addr known
  | expectedLen isWrite count =>
    have dom : c.lenInDomain count = true := wf
    simp [decode, encode, decodeOp, dom]
  | rxReset expected =>
    have dom : c.lenInDomain expected = true := wf
    simp [decode, encode, decodeOp, dom]
  | rxChunk chunk => rfl
  | chkValidate chunks n => rfl
  | chkDiag => rfl
  | txnSend body start bank x now ready =>
    simp only [Instr.wellFormed, Bool.and_eq_true] at wf
    obtain ⟨⟨dom, addr⟩, known⟩ := wf
    exact decode_encode_txnSend x now ready dom addr known
  | tmoPoll now => rfl
  | tmoDecide goOn => rfl

/-! ### Words written out -/

/-- Settles O5: the decoder evaluated on seven closed words. -/
theorem writtenWordsDecode : Obligations.WrittenWordsDecode := by
  refine ⟨?readReq, ?writeReq, ?readRsp, ?writeAck, ?rxReset, ?chkDiag, ?tmoDecide⟩
  case readReq | writeReq | readRsp | writeAck => decide
  case rxReset | chkDiag | tmoDecide => rfl

end Sys2Proof.Proofs
end

section
/-! PROOF. The CRC generator (`41_crc32_engine.md`): `CRC.HASH`, the table form, affinity, and one changed bit. -/

namespace Sys2Proof.Proofs
open Machine

/-! ### `CRC.HASH` -/

/-- The register before the final exclusive-or, by the reference form. -/
theorem crcRun_crcInit (l : List Byte) : crcRun crcInit l = refCrc l ^^^ 0xFFFFFFFF#32 := by
  rw [← crc32Word_eq, crc32Word, BitVec.xor_assoc, BitVec.xor_self, BitVec.xor_zero]

/-- R95: a range inside the buffer is hashed, and the register before the final exclusive-or stays in `CRC_REG`. -/
theorem exec_crcHash_range {buffer : List Byte} {offset count : Option Nat} (s : State)
    (fits : hashOffset offset + hashCount buffer offset count ≤ buffer.length) :
    exec (.crcHash (some buffer) offset count) s =
      .next ({ s with
        crcReg := crcRun crcInit (memRead buffer (hashOffset offset) (hashCount buffer offset count)) }.answerWith
        (.crc (crc32 (memRead buffer (hashOffset offset) (hashCount buffer offset count))))) := by
  change execCrcHash (some buffer) offset count s = _
  simp only [execCrcHash, if_neg (Nat.not_lt_of_le fits), crc32, crc32Word]

/-- R97: a range past the end of the buffer raises. -/
theorem exec_crcHash_pastEnd {buffer : List Byte} {offset count : Option Nat} (s : State)
    (past : buffer.length < hashOffset offset + hashCount buffer offset count) :
    exec (.crcHash (some buffer) offset count) s = .next (s.raise (.invalidArgument .range)) := by
  change execCrcHash (some buffer) offset count s = _
  simp only [execCrcHash, if_pos past]

/-- Settles O7: the range is hashed by R95, and both formulations of the CRC and of its byte order agree. -/
theorem hashAnswersTheReferenceCrc : Obligations.HashAnswersTheReferenceCrc := by
  intro s buffer offset count o n sub fits
  rw [exec_crcHash_range s fits, crcRun_crcInit, crc32_eq]
  rfl

/-- Settles O8: the absent buffer is looked for first (R96), then the range (R97). -/
theorem hashErrors : Obligations.HashErrors := by
  intro s offset count
  exact ⟨exec_crcHash_absent offset count s, fun buffer past => exec_crcHash_pastEnd s past⟩

/-! ### The table form -/

/-- A shift whose feedback bit is 0 only shifts. -/
theorem refShift_ushiftRight {w : Word} {n : Nat} (clear : w.getLsbD n = false) : refShift (w >>> n) = w >>> (n + 1) := by
  have feedback : (w >>> n).getLsbD 0 = false := by simpa using clear
  rw [refShift, feedback, BitVec.shiftRight_add]
  rfl

/-- A register whose low byte is 0 is shifted eight times with no feedback. -/
theorem refShift8_of_low_clear {w : Word} (clear : ∀ n < 8, w.getLsbD n = false) : refShift8 w = w >>> 8 := by
  have start : refShift w = w >>> 1 := refShift_ushiftRight (n := 0) (clear 0 (by omega))
  rw [refShift8, start]
  iterate 7 rw [refShift_ushiftRight (clear _ (by omega))]

/-- A register is its bytes above the lowest one, exclusive-or that one. -/
theorem xor_low_byte_low_clear (w : Word) {n : Nat} (hn : n < 8) :
    (w ^^^ (w.setWidth 8).setWidth 32).getLsbD n = false := by
  have inWord : n < 32 := by omega
  simp [hn, inWord]

/-- A byte reaches only the low byte of the register. -/
theorem xor_byte_ushiftRight (c : Word) (b : Byte) : (c ^^^ b.setWidth 32) >>> 8 = c >>> 8 := by
  have low : b.setWidth 32 >>> 8 = 0#32 := by
    apply BitVec.eq_of_getLsbD_eq
    intro i _
    simp
  rw [BitVec.ushiftRight_xor_distrib, low, BitVec.xor_zero]

/-- Eight shifts are one table step on the register (R94): by linearity the low byte is looked up and the rest shifted. -/
theorem refShift8_eq_table (w : Word) : refShift8 w = (w >>> 8) ^^^ refTable (w.setWidth 8) := by
  have parts : w = (w ^^^ (w.setWidth 8).setWidth 32) ^^^ (w.setWidth 8).setWidth 32 := by
    rw [BitVec.xor_assoc, BitVec.xor_self, BitVec.xor_zero]
  calc refShift8 w
      = refShift8 (w ^^^ (w.setWidth 8).setWidth 32) ^^^ refShift8 ((w.setWidth 8).setWidth 32) := by
        rw [← refShift8_xor, ← parts]
    _ = (w >>> 8) ^^^ refTable (w.setWidth 8) := by
        rw [refShift8_of_low_clear (fun n => xor_low_byte_low_clear w), xor_byte_ushiftRight, refTable]

/-- Settles O10: the second formulation enters the byte and shifts eight times, which is one table step; the printed
entries are evaluated. -/
theorem crcUpdateIsTheTableForm : Obligations.CrcUpdateIsTheTableForm := by
  refine ⟨fun c b => ?_, ?entry0, ?entry1, ?entry128, ?entry255⟩
  · rw [crcUpdate_eq, refUpdate, refShift8_eq_table, xor_byte_ushiftRight]
  case entry0 | entry1 | entry128 | entry255 => decide

/-! ### Affinity -/

/-- The sum of two registers after two bytes is the sum's register after the bytes' sum. -/
theorem crcUpdate_xor_xor (c d : Word) (a b : Byte) :
    crcUpdate c a ^^^ crcUpdate d b = crcUpdate (c ^^^ d) (a ^^^ b) := by
  rw [crcUpdate_eq, crcUpdate_eq, crcUpdate_eq, refUpdate, refUpdate, refUpdate, ← refShift8_xor, BitVec.setWidth_xor]
  congr 1
  ac_rfl

/-- The same for byte strings of one length. -/
theorem crcRun_xor_xor {x y : List Byte} (same : x.length = y.length) (c d : Word) :
    crcRun c x ^^^ crcRun d y = crcRun (c ^^^ d) (xorBytes x y) := by
  induction x generalizing y c d with
  | nil =>
    obtain rfl : y = [] := List.length_eq_zero_iff.1 same.symm
    rfl
  | cons a x ih =>
    obtain _ | ⟨b, y⟩ := y
    · simp at same
    · have tails := ih (Nat.succ.inj same) (crcUpdate c a) (crcUpdate d b)
      rw [crcUpdate_xor_xor] at tails
      exact tails

/-- Settles O11: both start from the same register and end with the same exclusive-or, which cancel. -/
theorem crcIsAffine : Obligations.CrcIsAffine := by
  intro x y same
  have runs := crcRun_xor_xor same crcInit crcInit
  rw [BitVec.xor_self] at runs
  rw [← runs, crc32Word, crc32Word]
  have cancel : crcXorOut ^^^ crcXorOut = 0#32 := BitVec.xor_self
  calc crcRun crcInit x ^^^ crcXorOut ^^^ (crcRun crcInit y ^^^ crcXorOut)
      = crcRun crcInit x ^^^ crcRun crcInit y ^^^ (crcXorOut ^^^ crcXorOut) := by ac_rfl
    _ = crcRun crcInit x ^^^ crcRun crcInit y := by rw [cancel, BitVec.xor_zero]

/-! ### One changed bit -/

/-- One byte can be told from the register it leaves. -/
theorem crcUpdate_byte_inj {c : Word} {a b : Byte} (h : crcUpdate c a = crcUpdate c b) : a = b := by
  have sum : crcRun (c ^^^ a.setWidth 32) [0#8] = crcRun (c ^^^ b.setWidth 32) [0#8] := by
    simpa [crcRun, crcUpdate_eq, refUpdate] using h
  have bytes : a.setWidth 32 = b.setWidth 32 := (BitVec.xor_right_inj c).1 (crcRun_inj [0#8] sum)
  simpa using congrArg (BitVec.setWidth 8) bytes

/-- Equal CRCs have equal registers. -/
theorem crcRun_eq_of_crc32_eq {x y : List Byte} (h : crc32 x = crc32 y) : crcRun crcInit x = crcRun crcInit y := by
  rw [crc32_eq, crc32_eq] at h
  rw [crcRun_crcInit, crcRun_crcInit, refTrailer_inj h]

/-- A run up to a byte, over it, and on. -/
theorem crcRun_append_cons (c : Word) (before : List Byte) (b : Byte) (after : List Byte) :
    crcRun c (before ++ b :: after) = crcRun (crcUpdate (crcRun c before) b) after :=
  List.foldl_append

/-- A changed byte changes the register, and no byte after it takes that back. -/
theorem crc32_set_ne {l : List Byte} {k : Nat} (hk : k < l.length) {b : Byte} (hb : b ≠ l[k]) :
    crc32 (l.set k b) ≠ crc32 l := by
  intro same
  have cut : l.take k ++ l[k] :: l.drop (k + 1) = l := by rw [List.cons_getElem_drop_succ, List.take_append_drop]
  have changed : l.take k ++ b :: l.drop (k + 1) = l.set k b := by rw [List.set_eq_take_append_cons_drop, if_pos hk]
  have runs := crcRun_eq_of_crc32_eq same
  rw [← changed, crcRun_append_cons] at runs
  have tail := runs.trans ((congrArg (crcRun crcInit) cut.symm).trans (crcRun_append_cons ..))
  exact hb (crcUpdate_byte_inj (crcRun_inj _ tail))

/-- Changing a bit of a byte changes the byte. -/
theorem xor_bit_ne (b : Byte) {j : Nat} (hj : j < 8) : b ^^^ BitVec.ofNat 8 (2 ^ j) ≠ b := by
  intro same
  have zero : BitVec.ofNat 8 (2 ^ j) = 0#8 := by simpa using same
  have pow : 2 ^ j < 2 ^ 8 := Nat.pow_lt_pow_right (by omega) hj
  have value : 2 ^ j % 2 ^ 8 = 0 := congrArg BitVec.toNat zero
  rw [Nat.mod_eq_of_lt pow] at value
  exact absurd value (Nat.two_pow_pos j).ne'

/-- Settles O12: a changed bit is a changed byte. -/
theorem oneBitChangesTheCrc : Obligations.OneBitChangesTheCrc := by
  intro bytes k j hk hj
  refine crc32_set_ne hk ?_
  rw [List.getD_eq_getElem _ _ hk]
  exact xor_bit_ne _ hj

end Sys2Proof.Proofs
end

section
/-! PROOF. The frame builds (`42_frame_codec.md`) and the two request rows of the wire (`30_encoding.md` section 3). -/

namespace Sys2Proof.Proofs
open Machine

/-! ### The frame a build makes -/

/-- A presented frame, as the state it leads to and byte by byte. -/
theorem present_answerWith (s : State) (f : List Byte) (a : Answer) :
    ∃ m, (s.present f).answerWith a = { s with tx := { buf := m, len := f.length }, answer := a } ∧
      ∀ k, Memory.read m k = if k < f.length then f[k]? else Memory.read s.tx.buf k :=
  ⟨(s.present f).tx.buf, rfl, s.present_read f⟩

@[simp] theorem refReadFrame_length (start count : Nat) (code x : Byte) : (refReadFrame start count code x).length = 14 :=
  rfl

@[simp] theorem refWriteFrame_length (start : Nat) (data : List Byte) (code x : Byte) :
    (refWriteFrame start data code x).length = 14 + data.length := by
  simp [refWriteFrame, refAddrBytes, refTrailerBytes]
  omega

/-- Settles O13: the frame of the layout is presented and answered. -/
theorem buildReadMakesTheFrame : Obligations.BuildReadMakesTheFrame := by
  intro s start count bank code x known hcount f
  obtain ⟨m, state, bytes⟩ := present_answerWith s f (.frame f)
  rw [refReadFrame_length] at state
  exact ⟨m, by rw [exec_buildRead_frame s start x hcount (mem_refBanks.1 known), state], bytes⟩

/-- Settles O14: the frame of the layout is presented and answered. -/
theorem buildWriteMakesTheFrame : Obligations.BuildWriteMakesTheFrame := by
  intro s start data bank code x known hmin hmax f
  obtain ⟨m, state, bytes⟩ := present_answerWith s f (.frame f)
  rw [refWriteFrame_length] at state bytes
  exact ⟨m, by rw [exec_buildWrite_frame s start x hmin hmax (mem_refBanks.1 known), state], bytes⟩

/-! ### The errors of a build -/

theorem buildReadFrame_unknown (start : Nat) {count k : Nat} (x : Byte) (hcount : 1 ≤ count) :
    buildReadFrame start count (.other k) x = .error (.unknownBank k) := by
  rw [buildReadFrame, if_neg (Nat.not_lt_of_le hcount)]
  rfl

theorem buildWriteFrame_unknown (start : Nat) {data : List Byte} {k : Nat} (x : Byte) (hmin : 1 ≤ data.length) :
    buildWriteFrame start (some data) (.other k) x = .error (.unknownBank k) := by
  rw [buildWriteFrame, if_neg (Nat.not_lt_of_le hmin)]
  rfl

/-- R115: only with a known bank is the size looked at. -/
theorem buildWriteFrame_tooLarge (start : Nat) {data : List Byte} {bank : BankSelector} {code : Byte} (x : Byte)
    (known : bankCode bank = some code) (large : 237 ≤ data.length) :
    buildWriteFrame start (some data) bank x = .error (.frameTooLarge (14 + data.length) 250) := by
  have total : headerLen + data.length + crcLen = 14 + data.length := by change 10 + data.length + 4 = _; omega
  have tooLarge : maxFrame < 14 + data.length := by change 250 < _; omega
  rw [buildWriteFrame, if_neg (by omega)]
  simp only [known, total, if_pos tooLarge]

/-- A selector that is not one of the unknown ones has a code. -/
theorem exists_bankCode {bank : BankSelector} (known : ∀ k, bank ≠ .other k) : ∃ code, bankCode bank = some code := by
  cases bank with
  | sdCard | eeprom | cpu => exact ⟨_, rfl⟩
  | other k => exact absurd rfl (known k)

theorem exec_buildRead_error (s : State) {start count : Nat} {bank : BankSelector} {x : Byte} {e : Error}
    (failed : buildReadFrame start count bank x = .error e) :
    exec (.buildRead start count bank x) s = .next (s.raise e) := by
  change execBuildRead start count bank x s = _
  rw [execBuildRead, failed, State.endBuild]

theorem exec_buildWrite_error (s : State) {start : Nat} {data : Option (List Byte)} {bank : BankSelector} {x : Byte}
    {e : Error} (failed : buildWriteFrame start data bank x = .error e) :
    exec (.buildWrite start data bank x) s = .next (s.raise e) := by
  change execBuildWrite start data bank x s = _
  rw [execBuildWrite, failed, State.endBuild]

/-- Settles O15: each build reports the first of its checks that fails, by raising. -/
theorem buildErrorsInOrder : Obligations.BuildErrorsInOrder := by
  intro s start bank x
  refine ⟨exec_buildRead_zero s start bank x, exec_buildWrite_error s rfl, exec_buildWrite_empty s start bank x,
    fun count k hcount unknown => ?read, fun data k hmin unknown => ?write, fun data large known => ?size⟩
  case read =>
    subst unknown
    exact exec_buildRead_error s (buildReadFrame_unknown start x hcount)
  case write =>
    subst unknown
    exact exec_buildWrite_error s (buildWriteFrame_unknown start x hmin)
  case size =>
    obtain ⟨code, hcode⟩ := exists_bankCode known
    exact exec_buildWrite_error s (buildWriteFrame_tooLarge start x hcode large)

/-! ### Whatever answers a frame -/

/-- An instruction that answers a frame has built it and presented it. -/
theorem built_of_answer_frame {s t : State} {i : Instr} {f : List Byte} (effect : Effect s i t)
    (answered : t.answer = .frame f) : Built f ∧ t = (s.present f).answerWith (.frame f) := by
  cases effect with
  | built i f' built =>
    obtain rfl : f' = f := Answer.frame.inj answered
    exact ⟨built, rfl⟩
  | raised | hashed | counted | opened | dropped | received | validated | diagnosed | sent | unpolled | polled | continued
  | aborted => simp at answered

/-- What R75 says of the length and the length byte of a request. -/
theorem length_of_isRequestFrame {f : List Byte} (request : isRequestFrame f = true) :
    14 ≤ f.length ∧ f.length ≤ 250 ∧ f.length = (f.getD 0 0#8).toNat := by
  simp only [isRequestFrame, Bool.and_eq_true, decide_eq_true_eq, beq_iff_eq] at request
  obtain ⟨⟨⟨⟨⟨⟨hmin, lengthByte⟩, hmax⟩, -⟩, -⟩, -⟩, -⟩ := request
  change f.length ≤ 250 at hmax
  refine ⟨hmin, hmax, ?_⟩
  change f.getD 0 0#8 = _ at lengthByte
  rw [lengthByte, BitVec.toNat_ofNat, Nat.mod_eq_of_lt (by omega)]

/-- `FRAME.BUILD_READ` that answers a frame answers the layout's. -/
theorem frame_of_exec_buildRead {s t : State} {start count : Nat} {bank : BankSelector} {x : Byte} {f : List Byte}
    (run : exec (.buildRead start count bank x) s = .next t) (answered : t.answer = .frame f) :
    ∃ code, f = refReadFrame start count code x := by
  cases run
  obtain ⟨e, -, ended⟩ | ⟨g, made, ended⟩ := endBuild_cases s (buildReadFrame start count bank x)
  · simp [ended] at answered
  · rw [ended] at answered
    obtain rfl : g = f := Answer.frame.inj answered
    obtain ⟨-, code, -, rfl⟩ := buildReadFrame_ok.1 made
    exact ⟨code, readFrame_eq start count code x⟩

/-- `FRAME.BUILD_WRITE` that answers a frame answers the layout's, of at least one byte. -/
theorem frame_of_exec_buildWrite {s t : State} {start : Nat} {data : Option (List Byte)} {bank : BankSelector} {x : Byte}
    {f : List Byte} (run : exec (.buildWrite start data bank x) s = .next t) (answered : t.answer = .frame f) :
    ∃ p code, 1 ≤ p.length ∧ f = refWriteFrame start p code x := by
  cases run
  obtain ⟨e, -, ended⟩ | ⟨g, made, ended⟩ := endBuild_cases s (buildWriteFrame start data bank x)
  · simp [ended] at answered
  · rw [ended] at answered
    obtain rfl : g = f := Answer.frame.inj answered
    obtain ⟨p, code, -, hmin, -, -, rfl⟩ := buildWriteFrame_ok.1 made
    exact ⟨p, code, hmin, writeFrame_eq start p code x⟩

/-- Settles O17: the frame was built, so it meets R75, and it was presented, so it stands in `TXF`; the command and the
intention are read off the layout. -/
theorem builtFramesAreWellFormed : Obligations.BuiltFramesAreWellFormed := by
  intro i s t f run answered
  obtain ⟨built, state⟩ := built_of_answer_frame (exec_effect run) answered
  have request := isRequestFrame_of_built built
  obtain ⟨hmin, hmax, lengthByte⟩ := length_of_isRequestFrame request
  have stands : t.frameInTx = f := by
    rw [state, State.frameInTx_congr ((s.present f).answerWith_tx _), State.frameInTx_present]
  refine ⟨lengthByte, hmin, hmax, request, stands, ?read, ?write⟩
  case read =>
    rintro start count bank x rfl
    obtain ⟨code, rfl⟩ := frame_of_exec_buildRead run answered
    exact ⟨rfl, rfl, rfl⟩
  case write =>
    rintro start data bank x rfl
    obtain ⟨p, code, pos, rfl⟩ := frame_of_exec_buildWrite run answered
    exact ⟨by rw [refWriteFrame_length]; omega, rfl, rfl⟩

/-! ### The request rows -/

/-- The frame asked for is presented where the build makes it. -/
theorem emitFrame_made (s : State) (f : List Byte) :
    emitFrame f (.ok f) s = .next ((s.present f).answerWith (.frame f)) := by
  rw [emitFrame, if_pos rfl, State.endBuild]

/-- A frame that is no well-formed request is never the one that is built, so it is refused. -/
theorem emitFrame_never {wanted : List Byte} (s : State) {body : SendBody} {a : Nat} {b : BankSelector} {x : Byte}
    {f : List Byte} (made : buildForSend body a b x = .ok f) (illFormed : isRequestFrame wanted = false) :
    emitFrame wanted (buildForSend body a b x) s = .refused .frameNeverEmitted := by
  have other : f ≠ wanted := by
    rintro rfl
    rw [isRequestFrame_built made] at illFormed
    cases illFormed
  rw [made, emitFrame]
  exact if_neg other

/-- Only the two request rows are presented as request frames. -/
theorem encode_eq_request {i : Instr} {f : List Byte} (h : encode i = .request f) :
    (∃ bank x lo hi crc, i = .readReq bank x lo hi crc ∧ f = readReqBytes bank x lo hi crc) ∨
    (∃ length bank x lo hi payload crc, i = .writeReq length bank x lo hi payload crc ∧
      f = writeReqBytes length bank x lo hi payload crc) := by
  cases i with
  | readReq bank x lo hi crc => cases h; exact .inl ⟨bank, x, lo, hi, crc, rfl, rfl⟩
  | writeReq length bank x lo hi payload crc => cases h; exact .inr ⟨length, bank, x, lo, hi, payload, crc, rfl, rfl⟩
  | txnSend body => cases body <;> cases h
  | readRsp | writeAck | crcHash | buildRead | buildWrite | expectedLen | rxReset | rxChunk | chkValidate | chkDiag
  | tmoPoll | tmoDecide => cases h

@[simp] theorem trunc24_toNat (a : Addr24) : trunc24 a.toNat = a := by simp [trunc24]

/-- The count recovered from two address fields leads from the one to the other (R75). -/
theorem trunc24_recoveredCount (lo hi : Addr24) : trunc24 (lo.toNat + recoveredCount lo hi - 1) = hi := by
  rw [recoveredCount, Nat.add_succ_sub_one, trunc24, BitVec.ofNat_add, BitVec.ofNat_toNat, BitVec.ofNat_toNat]
  simp

/-- The build behind `READ_REQ` makes the frame of its fields, where that is a request. -/
theorem buildReadFrame_of_readReq {bank x : Byte} {lo hi : Addr24} {crc : Trailer}
    (request : isRequestFrame (readReqBytes bank x lo hi crc) = true) :
    buildReadFrame lo.toNat (recoveredCount lo hi) (bankOfCode bank) x = .ok (readReqBytes bank x lo hi crc) := by
  obtain ⟨known, rfl⟩ := (isRequestFrame_readReq ..).1 request
  refine buildReadFrame_ok.2 ⟨Nat.le_add_left 1 _, bank, bankCode_bankOfCode known, ?_⟩
  rw [withTrailer_read, header, trunc24_toNat, trunc24_recoveredCount]
  rfl

/-- The build behind `WRITE_REQ` makes the frame of its fields, where that is a request. -/
theorem buildWriteFrame_of_writeReq {length bank x : Byte} {lo hi : Addr24} {payload : List Byte} {crc : Trailer}
    (request : isRequestFrame (writeReqBytes length bank x lo hi payload crc) = true) :
    buildWriteFrame lo.toNat (some payload) (bankOfCode bank) x =
      .ok (writeReqBytes length bank x lo hi payload crc) := by
  obtain ⟨known, hmin, hmax, rfl, last, rfl⟩ := (isRequestFrame_writeReq ..).1 request
  refine buildWriteFrame_ok.2 ⟨payload, bank, rfl, hmin, hmax, bankCode_bankOfCode known, ?_⟩
  have total : headerLen + payload.length + crcLen = 14 + payload.length := by
    change 10 + payload.length + 4 = _; omega
  rw [withTrailer_write, header, trunc24_toNat, last, total]

/-- Settles O20: the fields make the frame the build makes, so it is presented. -/
theorem requestRowsPresentTheirFrame : Obligations.RequestRowsPresentTheirFrame := by
  intro s i f presented request
  obtain ⟨m, state, bytes⟩ := present_answerWith s f (.frame f)
  refine ⟨m, ?_, bytes⟩
  rw [← state]
  obtain ⟨bank, x, lo, hi, crc, rfl, rfl⟩ | ⟨length, bank, x, lo, hi, payload, crc, rfl, rfl⟩ := encode_eq_request presented
  · change execReadReq bank x lo hi crc s = _
    rw [execReadReq, buildReadFrame_of_readReq request, emitFrame_made]
  · change execWriteReq length bank x lo hi payload crc s = _
    rw [execWriteReq, buildWriteFrame_of_writeReq request, emitFrame_made]

/-- The bank codes as R64 lists them. -/
theorem isBankCode_iff (b : Byte) : isBankCode b = true ↔ b = 0x1A#8 ∨ b = 0x1B#8 ∨ b = 0x1C#8 := by
  simp [isBankCode, or_assoc]

/-- A byte that is no bank code stands for the unknown selector of its value (entry 8). -/
theorem bankOfCode_unknown {code : Byte} (unknown : ¬ isBankCode code = true) : bankOfCode code = .other code.toNat := by
  rw [isBankCode_iff, not_or, not_or] at unknown
  obtain ⟨sdCard, eeprom, cpu⟩ := unknown
  rw [bankOfCode, if_neg sdCard, if_neg eeprom, if_neg cpu]

/-- `READ_REQ` with other fields: the bank is the one operand that can be at fault. -/
theorem exec_readReq_illFormed (s : State) {bank x : Byte} {lo hi : Addr24} {crc : Trailer}
    (illFormed : isRequestFrame (readReqBytes bank x lo hi crc) = false) :
    exec (.readReq bank x lo hi crc) s =
      if isBankCode bank then .refused .frameNeverEmitted else .next (s.raise (.unknownBank bank.toNat)) := by
  have counted : 1 ≤ recoveredCount lo hi := Nat.le_add_left 1 _
  change execReadReq bank x lo hi crc s = _
  rw [execReadReq]
  split_ifs with known
  · exact emitFrame_never s (body := .read _)
      (buildReadFrame_ok.2 ⟨counted, bank, bankCode_bankOfCode known, rfl⟩) illFormed
  · rw [bankOfCode_unknown known, buildReadFrame_unknown _ x counted]
    rfl

/-- `WRITE_REQ` with other fields: the errors of the build in its order, and the refusal where the build has none. -/
theorem exec_writeReq_illFormed (s : State) {length bank x : Byte} {lo hi : Addr24} {payload : List Byte} {crc : Trailer}
    (illFormed : isRequestFrame (writeReqBytes length bank x lo hi payload crc) = false) :
    exec (.writeReq length bank x lo hi payload crc) s =
      if payload.length = 0 then .next (s.raise (.invalidArgument .zeroLength))
      else if isBankCode bank then
        if 236 < payload.length then .next (s.raise (.frameTooLarge (14 + payload.length) 250))
        else .refused .frameNeverEmitted
      else .next (s.raise (.unknownBank bank.toNat)) := by
  change execWriteReq length bank x lo hi payload crc s = _
  rw [execWriteReq]
  split_ifs with empty known large
  · obtain rfl := List.length_eq_zero_iff.1 empty
    rfl
  · rw [buildWriteFrame_tooLarge _ x (bankCode_bankOfCode known) large]
    rfl
  · exact emitFrame_never s (body := .write _) (buildWriteFrame_ok.2 ⟨payload, bank, rfl, Nat.pos_of_ne_zero empty,
      Nat.le_of_not_lt large, bankCode_bankOfCode known, rfl⟩) illFormed
  · rw [bankOfCode_unknown known, buildWriteFrame_unknown _ x (Nat.pos_of_ne_zero empty)]
    rfl

/-- Settles O21: the bank, the command and the payload's length are read off the bytes of the row, which decide the branch
of `exec_readReq_illFormed` or `exec_writeReq_illFormed`. -/
theorem requestRowsStopOtherFrames : Obligations.RequestRowsStopOtherFrames := by
  intro s i f presented illFormed bank payload known
  obtain ⟨code, x, lo, hi, crc, rfl, rfl⟩ | ⟨length, code, x, lo, hi, data, crc, rfl, rfl⟩ := encode_eq_request presented
  · have bankByte : bank = code := rfl
    have command : (readReqBytes code x lo hi crc).getD 1 0#8 = 0xAA#8 := rfl
    have noPayload : payload = 0 := rfl
    clear_value bank payload
    subst bankByte noPayload
    rw [exec_readReq_illFormed s illFormed, command]
    refine ⟨fun h => absurd h.1 (by decide),
      fun _ unknown => if_neg (mt (isBankCode_iff _).1 unknown),
      fun _ h => absurd h (by decide),
      fun known _ _ => if_pos ((isBankCode_iff _).2 known)⟩
  · have bankByte : bank = code := rfl
    have command : (writeReqBytes length code x lo hi data crc).getD 1 0#8 = 0xDD#8 := rfl
    have total : (writeReqBytes length code x lo hi data crc).length = 14 + data.length := by
      simp [writeReqBytes]
      omega
    have size : payload = data.length := by
      change (writeReqBytes length code x lo hi data crc).length - 14 = _
      omega
    clear_value bank payload
    subst bankByte size
    rw [exec_writeReq_illFormed s illFormed, command, total]
    refine ⟨fun h => if_pos h.2, fun h unknown => ?_, fun h large => ?_, fun h fits nonempty => ?_⟩
    · rw [if_neg (fun empty => h ⟨rfl, empty⟩), if_neg (mt (isBankCode_iff _).1 unknown)]
      rfl
    · rw [if_neg (by omega), if_pos ((isBankCode_iff _).2 h), if_pos large]
      rfl
    · rw [if_neg (fun empty => nonempty ⟨rfl, empty⟩), if_pos ((isBankCode_iff _).2 h), if_neg (by omega)]

end Sys2Proof.Proofs
end

section
/-! PROOF. The checksum validator (`44_checksum_validator.md`). -/

namespace Sys2Proof.Proofs
open Machine

/-! ### `CHK.VALIDATE` and `CHK.DIAG` -/

/-- R166: the length of the trailer is fixed. -/
theorem exec_chkValidate_otherLength (s : State) (chunks : List (List Byte)) {n : Nat} (other : n ≠ 4) :
    exec (.chkValidate chunks n) s = .refused (.checksumLengthFixed n) := by
  change execChkValidate chunks n s = _
  rw [execChkValidate, if_pos other]

/-- Settles O37: the length is checked before the chunks are looked at. -/
theorem otherChecksumLengthsAreRefused : Obligations.OtherChecksumLengthsAreRefused :=
  fun s chunks _ other => exec_chkValidate_otherLength s chunks other

/-- R165: with `CHK_VALID` = 1 the pair is returned. -/
theorem exec_chkDiag_valid {s : State} (valid : s.chk.valid = true) :
    exec .chkDiag s = .next (s.answerWith (.diag true (some s.chk.expected) (some s.chk.received))) := by
  change execChkDiag s = _
  rw [execChkDiag, if_pos valid]

/-- R165: with `CHK_VALID` = 0 there is no pair. -/
theorem exec_chkDiag_invalid {s : State} (invalid : s.chk.valid = false) :
    exec .chkDiag s = .next (s.answerWith (.diag false none none)) := by
  change execChkDiag s = _
  rw [execChkDiag, if_neg (by simp [invalid])]

/-- Settles O38: the two branches of R165, each of which writes the answer alone. -/
theorem diagReturnsThePair : Obligations.DiagReturnsThePair :=
  fun _ => ⟨exec_chkDiag_valid, exec_chkDiag_invalid⟩

/-- `CHK.DIAG` leaves the pair it reads. -/
theorem exec_chkDiag_idempotent {s t : State} (run : exec .chkDiag s = .next t) : exec .chkDiag t = .next t := by
  cases valid : s.chk.valid with
  | true =>
    rw [exec_chkDiag_valid valid] at run
    cases run
    exact exec_chkDiag_valid valid
  | false =>
    rw [exec_chkDiag_invalid valid] at run
    cases run
    exact exec_chkDiag_invalid valid

/-- R160 to R164 for a payload and the trailer after it, however they are cut into chunks. -/
theorem exec_chkValidate_trailer (s : State) {chunks : List (List Byte)} {payload : List Byte} {got : Trailer}
    (joined : chunks.flatten = payload ++ trailerBytes got) (nonempty : payload ≠ []) :
    exec (.chkValidate chunks 4) s =
      .next { s with chk := { expected := refTrailer (refCrc payload), received := got, valid := true },
                     answer := .verdict (decide (refTrailer (refCrc payload) = got)) } := by
  have all : concat chunks = payload ++ trailerBytes got := joined
  have long : 4 < (concat chunks).length := by
    have pos := List.length_pos_iff.2 nonempty
    rw [all, List.length_append, trailerBytes_length]
    omega
  rw [exec_chkValidate_verdict s long, all, pairOf_append, trailersMatch_eq]
  rfl

/-- Settles O35: the four bytes are a trailer. -/
theorem validateComparesAndKeepsThePair : Obligations.ValidateComparesAndKeepsThePair :=
  fun s _ _ b0 b1 b2 b3 joined nonempty => exec_chkValidate_trailer s (got := ⟨b0, b1, b2, b3⟩) joined nonempty

/-! ### What validates -/

/-- A payload with its own CRC validates. -/
theorem exec_chkValidate_good (s : State) {chunks : List (List Byte)} {payload : List Byte}
    (joined : chunks.flatten = payload ++ trailerBytes (refTrailer (refCrc payload))) (nonempty : payload ≠ []) :
    ∃ t, exec (.chkValidate chunks 4) s = .next t ∧ t.answer = .verdict true :=
  ⟨_, exec_chkValidate_trailer s joined nonempty, by simp⟩

/-- A payload with another trailer does not. -/
theorem exec_chkValidate_bad (s : State) {chunks : List (List Byte)} {payload : List Byte} {got : Trailer}
    (joined : chunks.flatten = payload ++ trailerBytes got) (nonempty : payload ≠ [])
    (differ : refTrailer (refCrc payload) ≠ got) :
    ∃ t, exec (.chkValidate chunks 4) s = .next t ∧ t.answer = .verdict false :=
  ⟨_, exec_chkValidate_trailer s joined nonempty, by simp [differ]⟩

/-- A built frame is a header, perhaps data, and their CRC. -/
theorem exists_payload_of_built {f : List Byte} (built : Built f) :
    ∃ payload, payload ≠ [] ∧ f = payload ++ trailerBytes (refTrailer (refCrc payload)) := by
  obtain ⟨body, a, b, x, made⟩ := built
  cases body with
  | read n =>
    obtain ⟨-, code, -, rfl⟩ := buildReadFrame_ok.1 made
    exact ⟨header cmdRead 0 a n code x, List.cons_ne_nil _ _, by rw [withTrailer, crc32_eq]⟩
  | write d =>
    obtain ⟨p, code, -, -, -, -, rfl⟩ := buildWriteFrame_ok.1 made
    exact ⟨header cmdWrite p.length a p.length code x ++ p, List.cons_ne_nil _ _, by rw [withTrailer, crc32_eq]⟩

/-- Settles O39: the frame was built, so its last four bytes are the CRC of the others. -/
theorem builtFramesValidate : Obligations.BuiltFramesValidate := by
  intro i s t u f chunks run answered joined
  obtain ⟨payload, nonempty, rfl⟩ := exists_payload_of_built (built_of_answer_frame (exec_effect run) answered).1
  exact exec_chkValidate_good u joined nonempty

/-! ### One changed bit -/

@[simp] theorem flipBit_length (l : List Byte) (k j : Nat) : (flipBit l k j).length = l.length := List.length_set

/-- A changed bit in the first of two parts. -/
theorem flipBit_append_left {l : List Byte} (m : List Byte) {k : Nat} (j : Nat) (hk : k < l.length) :
    flipBit (l ++ m) k j = flipBit l k j ++ m := by
  rw [flipBit, flipBit, List.set_append_left _ _ hk, List.getD_append _ _ _ _ hk]

/-- A changed bit in the second of two parts. -/
theorem flipBit_append_right {l : List Byte} (m : List Byte) {k : Nat} (j : Nat) (hk : l.length ≤ k) :
    flipBit (l ++ m) k j = l ++ flipBit m (k - l.length) j := by
  rw [flipBit, flipBit, List.set_append_right _ _ hk, List.getD_append_right _ _ _ _ hk]

/-- A changed bit is a changed byte string. -/
theorem flipBit_ne {l : List Byte} {k j : Nat} (hk : k < l.length) (hj : j < 8) : flipBit l k j ≠ l := by
  intro same
  have byte : (flipBit l k j)[k]? = l[k]? := by rw [same]
  rw [flipBit, List.getElem?_set_self hk, List.getElem?_eq_getElem hk, List.getD_eq_getElem _ _ hk] at byte
  exact xor_bit_ne _ hj (Option.some.inj byte)

/-- A trailer with a bit changed is another trailer. -/
theorem exists_trailer_flipBit (t : Trailer) {k j : Nat} (hk : k < 4) (hj : j < 8) :
    ∃ got, flipBit (trailerBytes t) k j = trailerBytes got ∧ t ≠ got := by
  have bytes : trailerBytes (trailerOfBytes (flipBit (trailerBytes t) k j)) = flipBit (trailerBytes t) k j :=
    trailerBytes_trailerOfBytes _ (flipBit_length _ _ _)
  refine ⟨_, bytes.symm, fun same => ?_⟩
  rw [← same] at bytes
  exact flipBit_ne (by simpa using hk) hj bytes.symm

/-- Settles O40: a bit changed in the payload changes the recomputed CRC, one changed in the trailer the received one;
the other of the two stays. -/
theorem oneBitErrorsAreDetected : Obligations.OneBitErrorsAreDetected := by
  intro s payload chunks nonempty message
  refine ⟨fun joined => exec_chkValidate_good s joined nonempty, fun k j hk hj joined => ?_⟩
  have length : message.length = payload.length + 4 := List.length_append
  obtain inPayload | inTrailer := Nat.lt_or_ge k payload.length
  · have cut : flipBit message k j = flipBit payload k j ++ trailerBytes (refTrailer (refCrc payload)) :=
      flipBit_append_left _ j inPayload
    have changed : flipBit payload k j ≠ [] := by
      rwa [← List.length_pos_iff, flipBit_length, List.length_pos_iff]
    refine exec_chkValidate_bad s (joined.trans cut) changed ?_
    rw [← crc32_eq, ← crc32_eq]
    exact oneBitChangesTheCrc payload k j inPayload hj
  · obtain ⟨got, bytes, differ⟩ := exists_trailer_flipBit (refTrailer (refCrc payload)) (k := k - payload.length)
      (by omega) hj
    have cut : flipBit message k j = payload ++ trailerBytes got :=
      (flipBit_append_right _ j inTrailer).trans (congrArg (payload ++ ·) bytes)
    exact exec_chkValidate_bad s (joined.trans cut) nonempty differ

end Sys2Proof.Proofs
end

section
/-! PROOF. The pure operations (section 3 of `20_memory.md`). -/

namespace Sys2Proof.Proofs
open Machine

/-- An operation that ends everywhere, in a state from which it would end again in the same one, is idempotent. -/
theorem idempotent_of_exec_eq {i : Instr} {g : State → State} (run : ∀ u, exec i u = .next (g u))
    (again : ∀ u, g (g u) = g u) {s t : State} (ended : exec i s = .next t) : exec i t = .next t := by
  rw [run s] at ended
  cases ended
  rw [run, again]

/-- A build that has ended in a state ends there again: the same bytes stand in `TXF` already. -/
theorem endBuild_endBuild (s : State) (r : Except Error (List Byte)) : (s.endBuild r).endBuild r = s.endBuild r := by
  cases r with
  | error e => rfl
  | ok f =>
    simp only [State.endBuild, State.present, State.answerWith, Memory.writeBytes_writeBytes_same]

/-- `CRC.HASH` reads nothing of the state. -/
theorem exec_crcHash_idempotent {bytes : Option (List Byte)} {offset count : Option Nat} {s t : State}
    (run : exec (.crcHash bytes offset count) s = .next t) : exec (.crcHash bytes offset count) t = .next t := by
  cases bytes with
  | none => exact idempotent_of_exec_eq (exec_crcHash_absent offset count) (fun _ => rfl) run
  | some buffer =>
    obtain fits | past := le_or_gt (hashOffset offset + hashCount buffer offset count) buffer.length
    · exact idempotent_of_exec_eq (fun u => exec_crcHash_range u fits) (fun _ => rfl) run
    · exact idempotent_of_exec_eq (fun u => exec_crcHash_pastEnd u past) (fun _ => rfl) run

/-- `CHK.VALIDATE` writes the pair it takes from its operands. -/
theorem exec_chkValidate_idempotent {chunks : List (List Byte)} {n : Nat} {s t : State}
    (run : exec (.chkValidate chunks n) s = .next t) : exec (.chkValidate chunks n) t = .next t := by
  obtain rfl | other := eq_or_ne n 4
  · obtain short | long := le_or_gt (concat chunks).length 4
    · exact idempotent_of_exec_eq (fun u => exec_chkValidate_short u short) (fun _ => rfl) run
    · exact idempotent_of_exec_eq (fun u => exec_chkValidate_verdict u long) (fun _ => rfl) run
  · rw [exec_chkValidate_otherLength s chunks other] at run
    cases run

/-- Settles O54: each of the six ends again in the state it has ended in, since it writes what its operands give. -/
theorem pureOperationsAreIdempotent : Obligations.PureOperationsAreIdempotent := by
  intro i s t pure run
  obtain ⟨bytes, o, n, rfl⟩ | ⟨a, n, b, x, rfl⟩ | ⟨a, d, b, x, rfl⟩ | ⟨w, n, rfl⟩ | ⟨chunks, n, rfl⟩ | rfl := pure
  · exact exec_crcHash_idempotent run
  · exact idempotent_of_exec_eq (fun _ => rfl) (fun u => endBuild_endBuild u (buildReadFrame a n b x)) run
  · exact idempotent_of_exec_eq (fun _ => rfl) (fun u => endBuild_endBuild u (buildWriteFrame a d b x)) run
  · exact idempotent_of_exec_eq (exec_expectedLen w n) (fun _ => rfl) run
  · exact exec_chkValidate_idempotent run
  · exact exec_chkDiag_idempotent run

end Sys2Proof.Proofs
end

section
/-! PROOF. The receive assembler (`43_receive_assembler.md`): one chunk, the response rows, and runs of deliveries. -/

namespace Sys2Proof.Proofs
open Machine

/-! ### What closes a session -/

/-- The event of a validation (R147 of `43_receive_assembler.md`, R161 and R163 of `44_checksum_validator.md`). -/
def outcomeEvent (total : Nat) (all : List Byte) : Event :=
  if all.length ≤ crcLen then .error (.rangeError total crcLen)
  else if (pairOf all).expected = (pairOf all).received then .checksumOk
  else .error (.checksumMismatch (pairOf all).expected (pairOf all).received)

/-- The validator's pair after a completed session of the bytes `all`; it was `old` before. -/
def closingPair (check : Bool) (old : DiagPair) (all : List Byte) : DiagPair :=
  if check = true ∧ crcLen < all.length then pairOf all else old

/-- The events that close a completed session of the bytes `all`. -/
def closingEvents (check : Bool) (total : Nat) (all : List Byte) : List Event :=
  .completed total :: if check then [outcomeEvent total all] else []

/-- The validation writes the pair, where there is one, and emits its event. -/
theorem validateSession_eq (s : State) : s.validateSession =
    { s with chk := closingPair true s.chk (concat s.rx.chunks),
             events := s.events ++ [outcomeEvent s.rx.total (concat s.rx.chunks)] } := by
  obtain ⟨short, h⟩ | ⟨long, v, h, rfl⟩ := validateSession_cases s
  · rw [h, closingPair, if_neg (by omega), outcomeEvent, if_pos short]
    rfl
  · have pair : closingPair true s.chk (concat s.rx.chunks) = pairOf (concat s.rx.chunks) := if_pos ⟨rfl, long⟩
    rw [h, pair, outcomeEvent, if_neg (Nat.not_le_of_lt long)]
    simp only [trailersMatch_eq, decide_eq_true_eq]
    rfl

/-- R142: a total that meets the expected one completes the session, and closes it by the setting of `RX_CRC_CHECK`. -/
theorem judgeSession_exact {s : State} (lands : s.rx.total = s.rx.expected) : s.judgeSession =
    { s with rx := { s.rx with state := .completed }, chk := closingPair s.cfg.rxCrcCheck s.chk (concat s.rx.chunks),
             events := s.events ++ closingEvents s.cfg.rxCrcCheck s.rx.total (concat s.rx.chunks) } := by
  obtain ⟨-, check, h⟩ | ⟨-, check, h⟩ | ⟨above, -⟩ | ⟨below, -⟩ := judgeSession_cases s
  · rw [h, check]
    rfl
  · rw [h, check, validateSession_eq]
    simp [State.setRxState, State.emit, closingEvents]
  · omega
  · omega

/-- R142: a total below the expected one leaves the session open. -/
theorem judgeSession_below {s : State} (below : s.rx.total < s.rx.expected) : s.judgeSession = s := by
  rw [State.judgeSession, if_neg (by omega), if_neg (by omega)]

/-- R142: a total above the expected one is an overrun. -/
theorem judgeSession_above {s : State} (above : s.rx.expected < s.rx.total) :
    s.judgeSession = (s.setRxState .overrun).emit (.error (.receiveOverrun s.rx.total s.rx.expected)) := by
  rw [State.judgeSession, if_neg (by omega), if_pos above]

/-! ### One chunk -/

/-- A chunk the open session's store can take is appended, counted, forwarded and judged (R141). -/
theorem exec_rxChunk_open {s : State} {chunk : List Byte} (opened : s.rx.state = .accumulating)
    (holds : s.cfg.storeHolds (s.rx.total + chunk.length) = true) :
    exec (.rxChunk chunk) s =
      .next ((((s.appendChunk chunk).emit (.progress chunk)).judgeSession).answerWith .nothing) :=
  receiveChunk_open opened holds

/-- A chunk that leaves the total below the expected one. -/
theorem exec_rxChunk_below {s : State} {chunk : List Byte} (opened : s.rx.state = .accumulating)
    (holds : s.cfg.storeHolds (s.rx.total + chunk.length) = true) (below : s.rx.total + chunk.length < s.rx.expected) :
    exec (.rxChunk chunk) s =
      .next { s with
        rx := { state := .accumulating, chunks := s.rx.chunks ++ [chunk], total := s.rx.total + chunk.length,
                expected := s.rx.expected },
        events := s.events ++ [.progress chunk], answer := .nothing } := by
  rw [exec_rxChunk_open opened holds, judgeSession_below below, ← opened]
  rfl

/-- A chunk that meets the expected total. -/
theorem exec_rxChunk_exact {s : State} {chunk : List Byte} (opened : s.rx.state = .accumulating)
    (holds : s.cfg.storeHolds (s.rx.total + chunk.length) = true) (lands : s.rx.total + chunk.length = s.rx.expected) :
    exec (.rxChunk chunk) s =
      .next { s with
        rx := { state := .completed, chunks := s.rx.chunks ++ [chunk], total := s.rx.expected, expected := s.rx.expected },
        chk := closingPair s.cfg.rxCrcCheck s.chk (s.rx.chunks ++ [chunk]).flatten,
        events := s.events ++ .progress chunk ::
          closingEvents s.cfg.rxCrcCheck s.rx.expected (s.rx.chunks ++ [chunk]).flatten,
        answer := .nothing } := by
  rw [exec_rxChunk_open opened holds, judgeSession_exact lands]
  simp [State.answerWith, State.emit, State.appendChunk, concat, lands]

/-- A chunk that exceeds the expected total. -/
theorem exec_rxChunk_above {s : State} {chunk : List Byte} (opened : s.rx.state = .accumulating)
    (holds : s.cfg.storeHolds (s.rx.total + chunk.length) = true) (above : s.rx.expected < s.rx.total + chunk.length) :
    exec (.rxChunk chunk) s =
      .next { s with
        rx := { state := .overrun, chunks := s.rx.chunks ++ [chunk], total := s.rx.total + chunk.length,
                expected := s.rx.expected },
        events := s.events ++ [.progress chunk, .error (.receiveOverrun (s.rx.total + chunk.length) s.rx.expected)],
        answer := .nothing } := by
  rw [exec_rxChunk_open opened holds, judgeSession_above above]
  simp [State.answerWith, State.emit, State.setRxState, State.appendChunk]

/-- Settles O25: the chunk is judged to leave the session open. -/
theorem shortChunkAccumulates : Obligations.ShortChunkAccumulates :=
  fun _ _ opened below capacity => exec_rxChunk_below opened (storeHolds_of_le capacity) below

/-- A capacity that holds the expected total holds a chunk that meets it. -/
theorem storeHolds_of_lands {s : State} {chunk : List Byte} (lands : s.rx.total + chunk.length = s.rx.expected)
    (capacity : ∀ cap, s.cfg.rxbufCap = some cap → s.rx.expected ≤ cap) :
    s.cfg.storeHolds (s.rx.total + chunk.length) = true :=
  lands ▸ storeHolds_of_le capacity

/-- Settles O26: with the check disabled nothing but `Completed` closes the session. -/
theorem exactChunkCompletesUnchecked : Obligations.ExactChunkCompletesUnchecked := by
  intro s chunk opened lands capacity check
  rw [exec_rxChunk_exact opened (storeHolds_of_lands lands capacity) lands, check]
  rfl

/-- The pair of a byte string of at least one byte and a trailer. -/
theorem closingPair_trailer {all payload : List Byte} {got : Trailer} (old : DiagPair)
    (parts : all = payload ++ trailerBytes got) (nonempty : payload ≠ []) :
    closingPair true old all = { expected := refTrailer (refCrc payload), received := got, valid := true } := by
  have pos := List.length_pos_iff.2 nonempty
  have long : crcLen < all.length := by
    rw [parts, List.length_append, trailerBytes_length]
    change 4 < _
    omega
  rw [closingPair, if_pos ⟨rfl, long⟩, parts, pairOf_append]

/-- The event of a byte string of at least one byte and a trailer. -/
theorem outcomeEvent_trailer {all payload : List Byte} {got : Trailer} (total : Nat)
    (parts : all = payload ++ trailerBytes got) (nonempty : payload ≠ []) :
    outcomeEvent total all = if refTrailer (refCrc payload) = got then .checksumOk
      else .error (.checksumMismatch (refTrailer (refCrc payload)) got) := by
  have pos := List.length_pos_iff.2 nonempty
  have long : ¬ all.length ≤ crcLen := by
    rw [parts, List.length_append, trailerBytes_length]
    change ¬ _ ≤ 4
    omega
  rw [outcomeEvent, if_neg long, parts, pairOf_append]

/-- Settles O27: the bytes of the session are too few for a trailer, or a payload and a trailer. -/
theorem exactChunkCompletesAndValidates : Obligations.ExactChunkCompletesAndValidates := by
  intro s chunk opened lands capacity check all session
  have run := exec_rxChunk_exact opened (storeHolds_of_lands lands capacity) lands
  rw [check] at run
  refine ⟨fun short => ?_, ?_⟩
  · have noPair : closingPair true s.chk all = s.chk := if_neg (fun h => Nat.not_lt_of_le short h.2)
    have event : outcomeEvent s.rx.expected all = .error (.rangeError s.rx.expected 4) := if_pos short
    rw [run, closingEvents, noPair, event]
    rfl
  · intro payload b0 b1 b2 b3 parts nonempty want got
    have trailer : all = payload ++ trailerBytes got := parts
    rw [run, closingEvents, closingPair_trailer s.chk trailer nonempty,
      outcomeEvent_trailer s.rx.expected trailer nonempty]
    rfl

/-- Settles O28: the chunk is judged to exceed the session; the sink of the report is read off `Event.destination`. -/
theorem excessChunkOverruns : Obligations.ExcessChunkOverruns := by
  intro s chunk opened above capacity report
  exact ⟨exec_rxChunk_above opened (storeHolds_of_le capacity) above, rfl⟩

/-- Settles O30: `Idle` is not an open session. -/
theorem chunksInIdleAreDropped : Obligations.ChunksInIdleAreDropped :=
  fun _ chunk idle => exec_rxChunk_dropped chunk (by simp [idle])

/-! ### Opening a session -/

/-- Settles O23: the one branch of `RX.RESET` is on the store, not on `RX_STATE`. -/
theorem resetOpensAFreshSession : Obligations.ResetOpensAFreshSession := by
  intro s expected capacity
  change execRxReset expected s = _
  rw [execRxReset, if_pos (storeHolds_of_le capacity)]
  rfl

/-! ### The response rows -/

/-- What is presented as a response runs as its bytes arriving in one chunk (entry 7). -/
theorem exec_of_encode_response {i : Instr} {bytes : List Byte} (presented : encode i = .response bytes) (s : State) :
    exec i s = exec (.rxChunk bytes) s := by
  cases i with
  | readRsp | writeAck => cases presented; rfl
  | txnSend body => cases body <;> cases presented
  | readReq | writeReq | crcHash | buildRead | buildWrite | expectedLen | rxReset | rxChunk | chkValidate | chkDiag | tmoPoll
  | tmoDecide => cases presented

/-- Settles O22: the row runs as `RX.CHUNK`, which appends its bytes in an open session and drops them elsewhere. -/
theorem responseRowsArriveAsOneChunk : Obligations.ResponseRowsArriveAsOneChunk := by
  intro s i bytes presented
  rw [exec_of_encode_response presented]
  refine ⟨fun opened capacity => ?_, exec_rxChunk_dropped bytes⟩
  have run := exec_rxChunk_open opened (storeHolds_of_le capacity)
  exact ⟨_, run, run, by simp [judgeSession_rx]⟩

/-! ### Runs of deliveries -/

/-- Delivering two lists one after the other. -/
theorem deliver_append {xs ys : List (List Byte)} {s t : State} (first : deliver xs s = some t) :
    deliver (xs ++ ys) s = deliver ys t := by
  induction xs generalizing s with
  | nil =>
    cases first
    rfl
  | cons x xs ih =>
    rw [deliver] at first
    rw [List.cons_append, deliver]
    cases run : exec (.rxChunk x) s with
    | next u =>
      rw [run] at first
      exact ih first
    | fault | refused => simp [run] at first

/-- Delivering one more chunk. -/
theorem deliver_concat {xs : List (List Byte)} {x : List Byte} {s t u : State} (first : deliver xs s = some t)
    (run : exec (.rxChunk x) t = .next u) : deliver (xs ++ [x]) s = some u := by
  rw [deliver_append first, deliver, run]
  rfl

/-- Once the session has ended, deliveries change nothing: each writes the answer that stands there already. -/
theorem deliver_ended {t : State} (closed : t.rx.state ≠ .accumulating) (answered : t.answer = .nothing)
    (later : List (List Byte)) : deliver later t = some t := by
  induction later with
  | nil => rfl
  | cons c later ih =>
    have run : exec (.rxChunk c) t = .next t := by rw [exec_rxChunk_dropped c closed, ← answered]
    rw [deliver, run]
    exact ih

/-- An unbounded store holds everything. -/
theorem storeHolds_of_unbounded {c : Config} (unbounded : c.rxbufCap = none) (n : Nat) : c.storeHolds n = true := by
  rw [Config.storeHolds, unbounded]

/-- What a state has in common with the fresh session `s` it came from by chunks that all stay below the expected total. -/
structure Receiving (s : State) (chunks : List (List Byte)) (expected : Nat) (t : State) : Prop where
  cfg : t.cfg = s.cfg
  chk : t.chk = s.chk
  rx : t.rx = { state := .accumulating, chunks := chunks, total := chunks.flatten.length, expected := expected }
  events : t.events = s.events ++ chunks.map Event.progress

/-- Chunks whose running total stays below the expected one are all appended. -/
theorem deliver_below {s : State} {expected : Nat} (unbounded : s.cfg.rxbufCap = none)
    (fresh : s.rx = { state := .accumulating, chunks := [], total := 0, expected := expected }) (chunks : List (List Byte))
    (below : chunks ≠ [] → chunks.flatten.length < expected) :
    ∃ t, deliver chunks s = some t ∧ Receiving s chunks expected t := by
  induction chunks using List.reverseRecOn with
  | nil => exact ⟨s, rfl, rfl, rfl, fresh, by simp⟩
  | append_singleton init last ih =>
    have total : (init ++ [last]).flatten.length = init.flatten.length + last.length := by simp
    have bound := below (by simp)
    rw [total] at bound
    obtain ⟨u, first, cfg, chk, rx, events⟩ := ih (fun _ => by omega)
    have run := exec_rxChunk_below (s := u) (chunk := last) (by rw [rx])
      (storeHolds_of_unbounded (cfg ▸ unbounded) _) (by rw [rx]; exact bound)
    refine ⟨_, deliver_concat first run, cfg, chk, ?_, ?_⟩
    · rw [total]
      simp [rx]
    · simp [events]

/-- A run of chunks is a run that stays below the expected total and one last chunk. -/
theorem deliver_init {s : State} {expected : Nat} {chunks : List (List Byte)} (unbounded : s.cfg.rxbufCap = none)
    (fresh : s.rx = { state := .accumulating, chunks := [], total := 0, expected := expected }) (nonempty : chunks ≠ [])
    (below : ∀ j, 0 < j → j < chunks.length → (chunks.take j).flatten.length < expected) :
    ∃ init last t, chunks = init ++ [last] ∧ deliver init s = some t ∧ Receiving s init expected t := by
  obtain ⟨init, last, rfl⟩ : ∃ init last, chunks = init ++ [last] :=
    ⟨chunks.dropLast, chunks.getLast nonempty, (List.dropLast_append_getLast nonempty).symm⟩
  have initBelow : init ≠ [] → init.flatten.length < expected := fun h => by
    simpa using below init.length (List.length_pos_iff.2 h) (by simp)
  obtain ⟨t, first, receiving⟩ := deliver_below unbounded fresh init initBelow
  exact ⟨init, last, t, rfl, first, receiving⟩

/-- Settles O31: what closes the session is a function of its bytes and the setting of the check. -/
theorem chunkingDoesNotMatter : Obligations.ChunkingDoesNotMatter := by
  intro s bytes unbounded fresh
  refine ⟨closingPair s.cfg.rxCrcCheck s.chk bytes, closingEvents s.cfg.rxCrcCheck bytes.length bytes, fun check => ?_,
    fun chunks nonempty joined below => ?_⟩
  · rw [check]
    exact ⟨rfl, rfl⟩
  · obtain ⟨init, last, u, rfl, first, cfg, chk, rx, events⟩ := deliver_init unbounded fresh nonempty below
    have lands : u.rx.total + last.length = u.rx.expected := by
      rw [rx, ← joined]
      simp
    have run := exec_rxChunk_exact (s := u) (by rw [rx]) (storeHolds_of_unbounded (cfg ▸ unbounded) _) lands
    refine ⟨_, deliver_concat first run, by rw [rx], ?_, ?_, deliver_ended (by simp) rfl⟩
    · rw [cfg, chk, rx, joined]
    · simp [cfg, rx, events, joined]

/-- Settles O32: the last chunk straddles the expected total. -/
theorem straddlingChunkOverruns : Obligations.StraddlingChunkOverruns := by
  intro s expected chunks unbounded fresh nonempty below exceeds
  obtain ⟨init, last, u, rfl, first, cfg, chk, rx, events⟩ := deliver_init unbounded fresh nonempty below
  have total : u.rx.total + last.length = (init ++ [last]).flatten.length := by
    rw [rx]
    simp
  have above : u.rx.expected < u.rx.total + last.length := by
    rw [total, rx]
    exact exceeds
  have run := exec_rxChunk_above (by rw [rx]) (storeHolds_of_unbounded (cfg ▸ unbounded) _) above
  rw [total] at run
  refine ⟨_, deliver_concat first run, by rw [rx], chk, ?_, deliver_ended (by simp) rfl⟩
  simp [rx, events]

end Sys2Proof.Proofs
end

section
/-! PROOF. The transaction session and the timeout supervisor (`45_session_and_timeout.md`). -/

namespace Sys2Proof.Proofs
open Machine

/-! ### The build of a send -/

/-- The good operands of a send with the frame and the expected total they stand for. -/
def GoodSend (body : SendBody) (start : Nat) (code x : Byte) (f : List Byte) (expected : Nat) : Prop :=
  (∃ count, body = .read count ∧ 1 ≤ count ∧ f = refReadFrame start count code x ∧ expected = 1 + count + 4) ∨
  (∃ data, body = .write (some data) ∧ 1 ≤ data.length ∧ data.length ≤ 236 ∧ f = refWriteFrame start data code x ∧
    expected = 5)

/-- With good operands the build makes the layout's frame, and the expected total is the response's length. -/
theorem buildForSend_of_good {body : SendBody} {start : Nat} {bank : BankSelector} {code x : Byte} {f : List Byte}
    {expected : Nat} (known : (bank, code) ∈ refBanks) (good : GoodSend body start code x f expected) :
    buildForSend body start bank x = .ok f ∧ expectedOfBody body = expected := by
  have hcode := mem_refBanks.1 known
  obtain ⟨count, rfl, hcount, rfl, rfl⟩ | ⟨data, rfl, hmin, hmax, rfl, rfl⟩ := good
  · exact ⟨buildReadFrame_ok.2 ⟨hcount, code, hcode, (readFrame_eq start count code x).symm⟩, rfl⟩
  · exact ⟨buildWriteFrame_ok.2 ⟨data, code, rfl, hmin, hmax, hcode, (writeFrame_eq start data code x).symm⟩, rfl⟩

/-! ### What a send can end in -/

section
variable {s : State} {body : SendBody} {start : Nat} {bank : BankSelector} {x : Byte} {now : Nat} {f : List Byte}

/-- D21: the error of the build comes first. -/
theorem exec_txnSend_buildError {e : Error} (ready : Bool) (failed : buildForSend body start bank x = .error e) :
    exec (.txnSend body start bank x now ready) s = .next (s.raise e) := by
  change execTxnSend body start bank x now ready s = _
  simp only [execTxnSend, failed]

/-- R177: while the guard is taken a send ends with `SessionBusy`. -/
theorem exec_txnSend_busy (ready : Bool) (made : buildForSend body start bank x = .ok f) (busy : s.busy = true) :
    exec (.txnSend body start bank x now ready) s = .next (s.raise .sessionBusy) := by
  change execTxnSend body start bank x now ready s = _
  simp only [execTxnSend, made, if_pos busy]

/-- R178: with the guard free a transport that is not ready ends the send. -/
theorem exec_txnSend_notReady (made : buildForSend body start bank x = .ok f) (free : s.busy = false) :
    exec (.txnSend body start bank x now false) s = .next (s.raise .transportNotReady) := by
  change execTxnSend body start bank x now false s = _
  simp [execTxnSend, made, free]

/-- Entry 16: a store that cannot hold the response refuses the send. -/
theorem exec_txnSend_exceeds (made : buildForSend body start bank x = .ok f) (free : s.busy = false)
    (full : s.cfg.storeHolds (expectedOfBody body) = false) :
    exec (.txnSend body start bank x now true) s = .refused .sessionExceedsStore := by
  change execTxnSend body start bank x now true s = _
  simp [execTxnSend, made, free, full]

/-- While the guard is taken every send ends with an error. -/
theorem exec_txnSend_raises (ready : Bool) (busy : s.busy = true) :
    ∃ e, exec (.txnSend body start bank x now ready) s = .next (s.raise e) := by
  cases made : buildForSend body start bank x with
  | error e => exact ⟨e, exec_txnSend_buildError ready made⟩
  | ok f => exact ⟨.sessionBusy, exec_txnSend_busy ready made busy⟩

end

/-- A send that ends has raised, or has started the supervisor with the guard free before. -/
theorem txnSend_next {s t : State} {body : SendBody} {start : Nat} {bank : BankSelector} {x : Byte} {now : Nat}
    {ready : Bool} (run : exec (.txnSend body start bank x now ready) s = .next t) :
    (∃ e, t = s.raise e) ∨ (s.busy = false ∧ t.busy = true ∧ t.tmo.state = .waiting) := by
  cases busy : s.busy with
  | true =>
    obtain ⟨e, raised⟩ := exec_txnSend_raises ready busy
    rw [raised] at run
    cases run
    exact .inl ⟨e, rfl⟩
  | false =>
    cases made : buildForSend body start bank x with
    | error e =>
      rw [exec_txnSend_buildError ready made] at run
      cases run
      exact .inl ⟨e, rfl⟩
    | ok f =>
      cases ready with
      | false =>
        rw [exec_txnSend_notReady made busy] at run
        cases run
        exact .inl ⟨_, rfl⟩
      | true =>
        cases holds : s.cfg.storeHolds (expectedOfBody body) with
        | false =>
          rw [exec_txnSend_exceeds made busy holds] at run
          cases run
        | true =>
          rw [txnSend_passes made busy holds] at run
          cases run
          exact .inr ⟨rfl, rfl, rfl⟩

/-- Settles O41: the built frame is presented and taken by the transport in the same step. -/
theorem sendStartsATransaction : Obligations.SendStartsATransaction := by
  intro s body start bank code x now f expected known free capacity good
  obtain ⟨made, rfl⟩ := buildForSend_of_good known good
  refine ⟨(s.present f).tx.buf, ?_, s.present_read f⟩
  rw [txnSend_passes made free (storeHolds_of_le capacity), transportSend_present]
  rfl

/-- Settles O42: the build operation and the send run the same build, so the answer of the one says what the other meets. -/
theorem sendErrorsInOrder : Obligations.SendErrorsInOrder := by
  intro s t body start bank x now ready built
  have ended : t = s.endBuild (buildForSend body start bank x) := by
    cases body <;> exact (Host.Outcome.next.inj built).symm
  obtain ⟨e, failed, state⟩ | ⟨f, made, state⟩ := endBuild_cases s (buildForSend body start bank x)
  · rw [ended, state]
    refine ⟨fun e' answered => ?_, fun f answered => ?_, fun f answered => ?_⟩
    · obtain rfl : e = e' := Answer.error.inj answered
      exact exec_txnSend_buildError ready failed
    · cases answered
    · cases answered
  · rw [ended, state]
    refine ⟨fun e answered => ?_, fun f' answered busy => ?_, fun f' answered free notReady => ?_⟩
    · cases answered
    · exact exec_txnSend_busy ready made busy
    · subst notReady
      exact exec_txnSend_notReady made free

/-- Settles O43: a send that passes needs the guard and takes it; while the supervisor runs the guard is taken, so a send
raises; and of the changes of the supervisor only an end by a poll or a "stop" frees it. -/
theorem secondSendCannotPassTheGuard : Obligations.SecondSendCannotPassTheGuard := by
  refine ⟨fun s t body a b x now ready run answered => ?_, fun s body a b x now ready inv running => ?_,
    fun i s t run busy => ?_⟩
  · obtain ⟨e, rfl⟩ | started := txnSend_next run
    · cases answered
    · exact started
  · obtain ⟨guard, -, -, -⟩ := inv
    exact exec_txnSend_raises ready (guard.2 running)
  · cases effect_supervisor (exec_effect run) with
    | kept same | asked _ same | continued _ same => exact .inl (same.trans busy)
    | started _ free => exact absurd busy (by simp [free])
    | ended now instr state final _ tmo =>
      refine .inr (.inl ⟨⟨now, instr⟩, ?_⟩)
      rw [tmo]
      exact final
    | aborted instr _ tmo => exact .inr (.inr ⟨instr, by rw [tmo]⟩)

/-! ### The finite store -/

theorem storeHolds_of_lt {c : Config} {cap n : Nat} (finite : c.rxbufCap = some cap) (large : cap < n) :
    c.storeHolds n = false := by
  simp [Config.storeHolds, finite, large]

/-- Entry 16: a chunk the store cannot take is refused. -/
theorem exec_rxChunk_exceeds {s : State} {chunk : List Byte} (opened : s.rx.state = .accumulating)
    (full : s.cfg.storeHolds (s.rx.total + chunk.length) = false) :
    exec (.rxChunk chunk) s = .refused .chunkExceedsStore := by
  change receiveChunk chunk s = _
  simp [receiveChunk, opened, full]

/-- Entry 16: a session the store cannot hold is refused. -/
theorem exec_rxReset_exceeds {s : State} {expected : Nat} (full : s.cfg.storeHolds expected = false) :
    exec (.rxReset expected) s = .refused .sessionExceedsStore := by
  change execRxReset expected s = _
  simp [execRxReset, full]

/-- Settles O24: each operation that would store asks the store, and a response row runs as its chunk. -/
theorem finiteStoreRefuses : Obligations.FiniteStoreRefuses := by
  intro s cap finite
  refine ⟨fun expected large => exec_rxReset_exceeds (storeHolds_of_lt finite large),
    fun body start bank code x now expected known free operands large => ?send, fun chunk opened large => ?chunk⟩
  case send =>
    have good : ∃ f, GoodSend body start code x f expected := by
      obtain ⟨count, read, hcount, total⟩ | ⟨data, write, hmin, hmax, total⟩ := operands
      · exact ⟨_, .inl ⟨count, read, hcount, rfl, total⟩⟩
      · exact ⟨_, .inr ⟨data, write, hmin, hmax, rfl, total⟩⟩
    obtain ⟨f, good⟩ := good
    obtain ⟨made, rfl⟩ := buildForSend_of_good known good
    exact exec_txnSend_exceeds made free (storeHolds_of_lt finite large)
  case chunk =>
    have refused := exec_rxChunk_exceeds opened (storeHolds_of_lt finite large)
    exact ⟨refused, fun i presented => (exec_of_encode_response presented s).trans refused⟩

/-! ### `TMO.POLL` -/

/-- R181: outside `Waiting` a poll does nothing. -/
theorem exec_tmoPoll_notWaiting {s : State} (now : Nat) (other : s.tmo.state ≠ .waiting) :
    exec (.tmoPoll now) s = .next (s.answerWith .nothing) := by
  change execTmoPoll now s = _
  cases state : s.tmo.state with
  | waiting => exact absurd state other
  | halted | awaitingDecision | aborted | completed => simp only [execTmoPoll, state]

/-- R181: while `Waiting` a poll is one turn of the loop. -/
theorem exec_tmoPoll_waiting {s : State} (now : Nat) (waiting : s.tmo.state = .waiting) :
    exec (.tmoPoll now) s = .next ((s.pollWaiting now).answerWith .nothing) := by
  change execTmoPoll now s = _
  simp only [execTmoPoll, waiting]

theorem pollWaiting_completed {s : State} (now : Nat) (completed : s.rx.state = .completed) :
    s.pollWaiting now = (s.haltSupervisor .completed).emit (.supervisorCompleted (elapsedSince s.tmo.start now)) := by
  simp only [State.pollWaiting, completed]

theorem pollWaiting_overrun {s : State} (now : Nat) (overrun : s.rx.state = .overrun) :
    s.pollWaiting now = s.haltSupervisor .halted := by
  simp only [State.pollWaiting, overrun]

theorem pollWaiting_expired {s : State} {now : Nat} (pending : s.rx.state = .idle ∨ s.rx.state = .accumulating)
    (expired : s.tmo.thresholdMs ≤ elapsedSince s.tmo.start now) : s.pollWaiting now =
      (s.setTmoState .awaitingDecision).emit (.decisionRequest s.tmo.thresholdMs s.tmo.attempt) := by
  obtain state | state := pending <;> simp only [State.pollWaiting, state, if_pos expired]

theorem pollWaiting_early {s : State} {now : Nat} (pending : s.rx.state = .idle ∨ s.rx.state = .accumulating)
    (early : elapsedSince s.tmo.start now < s.tmo.thresholdMs) : s.pollWaiting now = s := by
  obtain state | state := pending <;> simp only [State.pollWaiting, state, if_neg (Nat.not_le_of_lt early)]

/-- With `now` not before the start the elapsed time is their difference. -/
theorem elapsedSince_eq {start now : Nat} (ordered : start ≤ now) : elapsedSince start now = now - start :=
  if_pos ordered

/-- Settles O44: one turn of the loop, by the state of the session and the threshold. -/
theorem pollTurnsWhileWaiting : Obligations.PollTurnsWhileWaiting := by
  intro s now waiting
  rw [exec_tmoPoll_waiting now waiting]
  refine ⟨elapsedSince s.tmo.start now, elapsedSince_eq, fun completed => ?_, fun overrun => ?_,
    fun pending expired => ?_, fun pending early => ?_⟩
  · rw [pollWaiting_completed now completed]
    rfl
  · rw [pollWaiting_overrun now overrun]
    rfl
  · rw [pollWaiting_expired pending expired]
    rfl
  · rw [pollWaiting_early pending early]
    rfl

/-- Settles O45: the four other states of the supervisor have one branch, which writes the answer alone. -/
theorem pollOutsideWaitingHasNoEffect : Obligations.PollOutsideWaitingHasNoEffect :=
  fun _ now other => exec_tmoPoll_notWaiting now other

/-! ### `TMO.DECIDE` -/

/-- R183: "continue". -/
theorem exec_tmoDecide_continue {s : State} (awaiting : s.tmo.state = .awaitingDecision) :
    exec (.tmoDecide true) s = .next (s.escalate.answerWith .nothing) := by
  change execTmoDecide true s = _
  simp only [execTmoDecide, awaiting, if_true]

/-- R183: "stop". -/
theorem exec_tmoDecide_stop {s : State} (awaiting : s.tmo.state = .awaitingDecision) :
    exec (.tmoDecide false) s = .next (((s.haltSupervisor .aborted).emit .supervisorAborted).answerWith .nothing) := by
  change execTmoDecide false s = _
  simp [execTmoDecide, awaiting]

/-- Settles O46: `State.escalate` is the state change of R183; the doubling is associativity of the product. -/
theorem continueDoublesTheThreshold : Obligations.ContinueDoublesTheThreshold := by
  intro s awaiting
  refine ⟨exec_tmoDecide_continue awaiting, fun threshold => ?_⟩
  rw [threshold, Nat.mul_assoc]

/-- Settles O47: halting clears the guard and nothing of it reads or writes the receive session. -/
theorem stopAborts : Obligations.StopAborts :=
  fun _ awaiting => ⟨exec_tmoDecide_stop awaiting, rfl⟩

/-- Settles O48: of the five states of the supervisor only one has a step. -/
theorem decideHasNoStepElsewhere : Obligations.DecideHasNoStepElsewhere := by
  intro s goOn other
  change execTmoDecide goOn s = _
  cases state : s.tmo.state with
  | awaitingDecision => exact absurd state other
  | halted | waiting | aborted | completed => simp only [execTmoDecide, state]

/-! ### The decision requests -/

/-- A poll that emits a request emits the threshold and the attempt, and awaits the decision. -/
theorem tmo_of_decisionRequest {s t : State} {now ms k : Nat} (run : exec (.tmoPoll now) s = .next t)
    (asked : t.events = s.events ++ [.decisionRequest ms k]) :
    ms = s.tmo.thresholdMs ∧ k = s.tmo.attempt ∧ t.tmo = { s.tmo with state := .awaitingDecision } ∧ t.cfg = s.cfg := by
  obtain ⟨-, rfl⟩ | ⟨-, rfl⟩ := tmoPoll_next run
  · simp at asked
  · obtain ⟨-, h⟩ | ⟨-, h⟩ | ⟨-, -, h⟩ | ⟨-, -, h⟩ := pollWaiting_cases s now
    · simp [h] at asked
    · simp [h] at asked
    · simp only [h, State.answerWith_events, State.emit_events, State.setTmoState_events, List.append_cancel_left_eq,
        List.cons.injEq, Event.decisionRequest.injEq, and_true] at asked
      obtain ⟨threshold, attempt⟩ := asked
      exact ⟨threshold.symm, attempt.symm, by simp [h], by simp⟩
    · simp [h] at asked

/-- Settles O49: the request carries the threshold, which in a consistent state is the base times `2 ^ (attempt - 1)`, and
which a "continue" doubles. -/
theorem decisionRequestsDouble : Obligations.DecisionRequestsDouble := by
  intro s t u v now later ms k ms' k' inv run asked
  obtain ⟨-, threshold, -, doubled⟩ := inv
  obtain ⟨rfl, rfl, tmo, cfg⟩ := tmo_of_decisionRequest run asked
  refine ⟨by rw [threshold, doubled], fun continued again askedAgain => ?_⟩
  rw [exec_tmoDecide_continue (by rw [tmo])] at continued
  cases continued
  obtain ⟨rfl, rfl, -, -⟩ := tmo_of_decisionRequest again askedAgain
  refine ⟨?_, by simp [tmo]⟩
  calc t.cfg.baseTimeoutMs * (t.tmo.mult * 2)
      = 2 * (s.cfg.baseTimeoutMs * s.tmo.mult) := by rw [cfg, tmo, ← Nat.mul_assoc, Nat.mul_comm]
    _ = 2 * s.tmo.thresholdMs := by rw [threshold]

/-- Settles O50: the completing chunk closes the session with a mismatch and leaves the supervisor waiting; the poll sees
the completed session. -/
theorem successAndFailureTogether : Obligations.SuccessAndFailureTogether := by
  intro s t chunk payload got now check opened waiting ordered lands parts nonempty differ run
  obtain ⟨closed, -⟩ | ⟨-, holds, -⟩ := receiveChunk_next run
  · exact absurd opened closed
  have mismatch : outcomeEvent s.rx.expected (s.rx.chunks ++ [chunk]).flatten =
      .error (.checksumMismatch (refTrailer (refCrc payload)) got) := by
    rw [outcomeEvent_trailer _ parts nonempty, if_neg differ.symm]
  rw [exec_rxChunk_exact opened holds lands, check, closingEvents, mismatch] at run
  cases run
  refine ⟨_, exec_tmoPoll_waiting now waiting, ?_⟩
  rw [pollWaiting_completed now rfl]
  refine ⟨rfl, rfl, ?_⟩
  simp [elapsedSince_eq ordered]

end Sys2Proof.Proofs
end
